-- ==== Sys2Proof/Word.lean ====
section
/-! DEFINITION. The words of the LT-62's vocabulary that every other file uses: bytes, the two arms, the three axes,
values held once per arm and once per axis, and positions as triples of nanometres (spec/00_scope.md sections 5 and 6). -/

namespace Sys2Proof

/-- One byte of the exchange memory. -/
abbrev Byte := BitVec 8

/-- The 48-bit timestamp counter's word, in µs (R119). -/
abbrev Stamp := BitVec 48

/-- One of the two three-axis horizontal arms (spec/00_scope.md section 5). -/
inductive Arm where
  | A
  | B
deriving DecidableEq, Repr

/-- The arm facing this one across the body. -/
def Arm.other : Arm → Arm
  | .A => .B
  | .B => .A

/-- One linear axis of an arm; also the frame axes and the correction directions. -/
inductive Axis where
  | X
  | Y
  | Z
deriving DecidableEq, Repr

/-- The three axes in the order in which the layouts list them. -/
def Axis.all : List Axis := [.X, .Y, .Z]

/-- A value for each of the two arms. -/
structure PerArm (α : Type) where
  a : α
  b : α
deriving DecidableEq, Repr

/-- The value of one arm. -/
def PerArm.get {α : Type} (p : PerArm α) : Arm → α
  | .A => p.a
  | .B => p.b

/-- The pair with one arm's value replaced. -/
def PerArm.set {α : Type} (p : PerArm α) (arm : Arm) (v : α) : PerArm α :=
  match arm with
  | .A => { p with a := v }
  | .B => { p with b := v }

/-- The same value for both arms. -/
def PerArm.both {α : Type} (v : α) : PerArm α := { a := v, b := v }

/-- A value for each of the three axes. -/
structure Axes (α : Type) where
  x : α
  y : α
  z : α
deriving DecidableEq, Repr

/-- The value of one axis. -/
def Axes.get {α : Type} (v : Axes α) : Axis → α
  | .X => v.x
  | .Y => v.y
  | .Z => v.z

/-- The triple with one axis's value replaced. -/
def Axes.set {α : Type} (v : Axes α) (i : Axis) (c : α) : Axes α :=
  match i with
  | .X => { v with x := c }
  | .Y => { v with y := c }
  | .Z => { v with z := c }

/-- The same value on all three axes. -/
def Axes.all3 {α : Type} (c : α) : Axes α := { x := c, y := c, z := c }

/-- The triple formed axis by axis. -/
def Axes.of {α : Type} (f : Axis → α) : Axes α := { x := f .X, y := f .Y, z := f .Z }

/-- The three values in the order X, Y, Z. -/
def Axes.toList {α : Type} (v : Axes α) : List α := [v.x, v.y, v.z]

/-- Every axis has the property. -/
def Axes.every {α : Type} (v : Axes α) (p : α → Bool) : Bool := p v.x && p v.y && p v.z

/-- A position or offset: three signed lengths in nm (spec/00_scope.md section 6.1). -/
abbrev Vec3 := Axes Int

/-- The zero vector. -/
def Vec3.zero : Vec3 := ⟨0, 0, 0⟩

/-- Sum of two vectors, formed exactly (R39). -/
def Vec3.add (u v : Vec3) : Vec3 := ⟨u.x + v.x, u.y + v.y, u.z + v.z⟩

/-- Multiple of a vector, formed exactly (R41). -/
def Vec3.scale (k : Int) (v : Vec3) : Vec3 := ⟨k * v.x, k * v.y, k * v.z⟩

/-- The three raw scale counts of an arm. -/
abbrev Counts := Axes (BitVec 32)

end Sys2Proof
end

