-- ==== Sys2Proof/Syntax.lean ====
section
/-! DEFINITION. The commands of the LT-62: one constructor of `Instr` for each row of spec/opcode_table.json, with the operands that
the outside world supplies with the command (which arm, what a register write carries, what a link reports). The rows give no
operand fields; the operands chosen here are named in notes/assumptions/2.md. -/

namespace Sys2Proof

/-- What an ARM_CMD write names: arm A, arm B or BOTH (R8). -/
inductive ArmSel where
  | armA
  | armB
  | both
deriving DecidableEq, Repr

/-- One arm is named by the selection. -/
def ArmSel.names : ArmSel → Arm → Bool
  | .armA, .A => true
  | .armA, .B => false
  | .armB, .A => false
  | .armB, .B => true
  | .both, _ => true

/-- How many arms the selection names (R8). -/
def ArmSel.size : ArmSel → Nat
  | .armA => 1
  | .armB => 1
  | .both => 2

/-- An answer of an arm's head to a command, coupling or index: the arm, and the timestamp at which the command was sent (R97, R103). -/
structure HeadAnswer where
  arm : Arm
  asked : Stamp
deriving DecidableEq, Repr

/-- An identity reply of the head: the time of the request it answers, and the code of the probe coupled to it, or none (R95). -/
structure IdentityReply where
  asked : Stamp
  code : Option (BitVec 16)
deriving DecidableEq, Repr

/-- A deflection reply of the head: the time of the request it answers, and the components in nm (R132). -/
structure DeflectionReply where
  asked : Stamp
  d : Axes (BitVec 32)
deriving DecidableEq, Repr

/-- A reply on the thermal line: the module that sends it, the time of the request it answers, and the temperature (R136). -/
structure ModuleReply where
  address : Nat
  asked : Stamp
  value : BitVec 16
deriving DecidableEq, Repr

/-- A trigger edge on a head link: its instant, and the three scale counts at it (R119). -/
structure Edge where
  time : Stamp
  counts : Axes (BitVec 32)
deriving DecidableEq, Repr

/-- The nine sections of the status block (R18). -/
inductive Section where
  | device
  | armA
  | armB
  | zones
  | rack
  | thermal
  | temperatures
  | mirror
  | maps
deriving DecidableEq, Repr

/-- The nine sections in the order of their offsets. -/
def Section.all : List Section :=
  [.device, .armA, .armB, .zones, .rack, .thermal, .temperatures, .mirror, .maps]

/-- The section that shows an arm. -/
def Section.ofArm : Arm → Section
  | .A => .armA
  | .B => .armB

/-- State of a port's lid, as the rack reports it (R102, R103). -/
inductive Lid where
  | closed
  | opened
  | moving
  | jammed
deriving DecidableEq, Repr

/-- Occupancy of a port (R102). -/
inductive PortOcc where
  | unknown
  | empty
  | occupied
deriving DecidableEq, Repr

/-- The level of the thermal line's data wire: released, or held low since a moment (R137). -/
inductive Wire where
  | high
  | low (since : Stamp)
deriving DecidableEq, Repr

/-- One port's part of the rack's status reply: port number, whether its sensor is OCCUPIED, and its lid (R103). -/
structure PortReply where
  port : Nat
  occupied : Bool
  lid : Lid
deriving DecidableEq, Repr

/-- The commands: register writes, expiries, reports of the links and pins, and the item steps of an arm's executor. -/
inductive Instr where
  /-- POWER_ON (R16): with the level of the emergency-stop input and the six scale signals found then. -/
  | powerOn (estop : Bool) (signals : PerArm (Axes Bool))
  /-- START written to CONTROL (R12). -/
  | start
  /-- The end of the installation block's validation (R13), with the data wire the first thermal read meets. -/
  | startValidationComplete (wire : Wire)
  /-- STOP written to CONTROL (R14). -/
  | stop
  /-- The conditions of R14 for STOPPED are met. -/
  | stoppingComplete
  /-- SOFT_RESET written to CONTROL (R15). -/
  | softReset
  /-- Both arms are stationary after a SOFT_RESET (R15). -/
  | softResetComplete
  /-- NUDGE written to CONTROL (R4). -/
  | nudge
  /-- ARM_CMD HOLD (R64). -/
  | hold (sel : ArmSel)
  /-- ARM_CMD RESUME (R65). -/
  | resume (sel : ArmSel)
  /-- ARM_CMD ABORT (R66). -/
  | abort (sel : ArmSel)
  /-- A write to CAUSE (R9). -/
  | causeWrite (value : BitVec 32)
  /-- A write to MASK (R9). -/
  | maskWrite (value : BitVec 32)
  /-- A write that is ignored: to IDENT, STATE or AREA_ERROR, or of undefined bits (R182). -/
  | registerWriteIgnored (offset : Nat) (value : BitVec 32)
  /-- Expiry of the rescan timer (R4). -/
  | rescanTimerExpiry
  /-- The scan in progress, carried out whole (R5). -/
  | tagScan
  /-- The end of one section's rewrite (R17). -/
  | sectionRewriteComplete (sec : Section)
  /-- Assertion of the emergency-stop input (R68). -/
  | estopAssert
  /-- Release of the emergency-stop input (R69). -/
  | estopRelease
  /-- An axis scale loses its signal (R48). -/
  | scaleSignalLoss (arm : Arm) (axis : Axis)
  /-- An axis scale's signal returns (R48). -/
  | scaleSignalReturn (arm : Arm) (axis : Axis)
  /-- The reference mark of an axis passes, with the counter value at the mark (R63). -/
  | referenceMark (arm : Arm) (axis : Axis) (count : BitVec 32)
  /-- The searching axis has come to rest after its mark (R63). -/
  | homeAxisDone (arm : Arm) (counts : Counts)
  /-- One amplifier reports ready after the enable (R60). -/
  | driveReady (arm : Arm) (axis : Axis)
  /-- 1,000 ms after the enable (R60). -/
  | driveReadyTimeout (arm : Arm)
  /-- One amplifier reports a fault (R60). -/
  | amplifierFault (arm : Arm) (axis : Axis)
  /-- One axis's commanded position against its count (R59). -/
  | followingError (arm : Arm) (axis : Axis) (commanded : Int) (count : BitVec 32)
  /-- The profile has ended and the arm stands at these counts (R56). -/
  | segmentComplete (arm : Arm) (counts : Counts)
  /-- 1,000 ms after the profile's end (R56). -/
  | inPositionTimeout (arm : Arm) (counts : Counts)
  /-- A stopping arm has come to rest at these counts (R56). -/
  | armAtRest (arm : Arm) (counts : Counts)
  /-- The item steps: the item handed on by the executor of the arm is carried out. -/
  | move (arm : Arm)
  | dwell (arm : Arm)
  | home (arm : Arm)
  | touch (arm : Arm)
  | scan (arm : Arm)
  | head (arm : Arm)
  | change (arm : Arm)
  | call (arm : Arm)
  | returnItem (arm : Arm)
  | repeatItem (arm : Arm)
  | mark (arm : Arm)
  | updateProbe (arm : Arm)
  | setLocation (arm : Arm)
  | loadMap (arm : Arm)
  | clearMap (arm : Arm)
  | setPart (arm : Arm)
  /-- The timers of an arm's motion generator (R62, R70, R71). -/
  | dwellTimerExpiry (arm : Arm)
  | idleTimerExpiry (arm : Arm)
  | wakeTimerExpiry (arm : Arm)
  /-- The wait limits (R81, R107). -/
  | zoneWaitTimeout (arm : Arm)
  | rackWaitTimeout (arm : Arm)
  /-- Reports of the rack link (R103). -/
  | lidReport (port : Nat) (lid : Lid)
  | occupancyReport (port : Nat) (occupied : Bool)
  | rackStatusReply (ports : List PortReply)
  | rackStatusTimeout
  /-- The 2,000 ms lid timer of an arm's change (R110). -/
  | lidTimerExpiry (arm : Arm)
  /-- Coupling reports of an arm's head link (R103). -/
  | couplingUnlocked (answer : HeadAnswer)
  | couplingLocked (answer : HeadAnswer)
  /-- The change timers of R112 to R114. -/
  | releaseTimerExpiry (arm : Arm)
  | dropConfirmTimeout (arm : Arm)
  | lockTimerExpiry (arm : Arm)
  | unlockWaitExpiry (arm : Arm)
  | pickConfirmTimeout (arm : Arm)
  /-- The first comparison of a head supply, 20 ms after switch-on, with the current found in mA (R100). -/
  | supplyCheck (arm : Arm) (current : Nat)
  /-- A later comparison of a head supply, with the current found in mA (R101). -/
  | overcurrent (arm : Arm) (current : Nat)
  /-- The head's identity reply: a code, or no probe coupled (R95). -/
  | identityReply (arm : Arm) (reply : IdentityReply)
  | identityTimeout (arm : Arm)
  /-- Head indexing (R97). -/
  | headIndexDone (answer : HeadAnswer)
  | headTimerExpiry (arm : Arm)
  /-- The end of the shadow window (R99). -/
  | shadowEnd (arm : Arm)
  /-- A trigger edge on the arm's head link (R120). -/
  | trigger (arm : Arm) (edge : Edge)
  /-- A sample instant of a SCAN, with the three counts (R132). -/
  | sampleTimerExpiry (arm : Arm) (counts : Counts)
  /-- The head's deflection reply (R132). -/
  | deflectionReply (arm : Arm) (d : DeflectionReply)
  | deflectionTimeout (arm : Arm)
  /-- The thermal line (R136 to R138); `wire` is the data wire that the read begun by the command meets. -/
  | thermalCycleDue (wire : Wire)
  | thermalReply (value : ModuleReply) (status : BitVec 8) (check : BitVec 8) (wire : Wire)
  | thermalReadTimeout (wire : Wire)
  | dataWireHigh
  | lineStuck
  | releaseSequenceEnd (wire : Wire)
  /-- An ARM_CMD write whose arm or command field holds no defined value (R8). -/
  | armCmdUndefined
deriving DecidableEq, Repr

end Sys2Proof
end

