-- ==== Sys2Proof/Config.lean ====
section
/-! DEFINITION. What the LT-62 fixes in the part (IDENT) and the values that the spec leaves open: each open value is an opaque
constant, so that no proof can see what it is (notes/assumptions/6.md, notes/assumptions/7.md). -/

namespace Sys2Proof

/-- IDENT, bits 31..16: the part code (section 11.2). -/
def Config.partCode : Nat := 0x4C62

/-- IDENT, bits 15..0: the revision the manual describes (section 11.2). -/
def Config.revision : Nat := 0x0001

/-- FREE VALUE. Which arm's room request is served first where R173 lets either be; draw number to arm.
notes/assumptions/6.md -/
opaque Config.firstServed : Nat → Bool

/-- FREE VALUE. The rate of change of R145 when two good reads carry the same timestamp, where its quotient has no value:
from the new and the previous reading. notes/assumptions/7.md -/
opaque Config.rateOfNoTime : Int → Int → Int

end Sys2Proof
end

