-- ==== Sys2Proof/Machine/Bytes.lean ====
section
/-! DEFINITION. Arithmetic and byte order shared by every block: rounding to nearest with ties away from zero
(spec/00_scope.md section 6.3), little-endian fields (section 6.5, R181), and the saturating and wrapping counters. -/

namespace Sys2Proof.Machine

/-- `round(n / d)` of section 6.3: the nearest integer, a value exactly halfway rounded away from zero. -/
def roundDiv (n : Int) (d : Nat) : Int :=
  let q : Int := Int.ofNat ((2 * n.natAbs + d) / (2 * d))
  if n < 0 then -q else q

/-- `ceil(n / d)` on naturals. -/
def ceilDiv (n d : Nat) : Nat := (n + d - 1) / d

/-- `v` held within `lo..hi`. -/
def holdWithin (lo hi v : Int) : Int := if v < lo then lo else if hi < v then hi else v

/-- A 16-bit counter that stops at 65,535 (R33, R141, R179). -/
def satAdd16 (n k : Nat) : Nat := if 65535 < n + k then 65535 else n + k

/-- The `w` low bytes of `n`, least significant first. -/
def leBytes : Nat → Nat → List Byte
  | 0, _ => []
  | w + 1, n => BitVec.ofNat 8 n :: leBytes w (n / 256)

/-- The number whose little-endian bytes these are. -/
def leNat : List Byte → Nat
  | [] => 0
  | b :: t => b.toNat + 256 * leNat t

/-- Two's-complement reading of an unsigned field of `w` bytes. -/
def signedOf (w n : Nat) : Int :=
  if n < 2 ^ (8 * w - 1) then (n : Int) else (n : Int) - (2 ^ (8 * w) : Nat)

/-- The unsigned field of `w` bytes that holds a signed value in two's complement. -/
def unsignedOf (w : Nat) (v : Int) : Nat := (v % ((2 ^ (8 * w) : Nat) : Int)).toNat

/-- The `w` little-endian bytes of a signed value. -/
def leSigned (w : Nat) (v : Int) : List Byte := leBytes w (unsignedOf w v)

/-- `n` reserved bytes, which the part writes as 0 (R182). -/
def zeros (n : Nat) : List Byte := List.replicate n 0#8

/-- The bytes from offset `off`, `w` of them, of a structure held as a byte list. -/
def field (bs : List Byte) (off w : Nat) : Nat := leNat ((bs.drop off).take w)

/-- A signed field of a structure held as a byte list. -/
def fieldS (bs : List Byte) (off w : Nat) : Int := signedOf w (field bs off w)

/-- Three signed fields of `w` bytes each, X, Y, Z. -/
def fieldVec (bs : List Byte) (off w : Nat) : Vec3 :=
  ⟨fieldS bs off w, fieldS bs (off + w) w, fieldS bs (off + 2 * w) w⟩

/-- The 0/1 byte of a yes/no field. -/
def boolByte (b : Bool) : Nat := if b then 1 else 0

/-- A page or slot index of none is 0xFFFF (R181). -/
def indexOrNone : Option Nat → Nat
  | some n => n
  | none => 0xFFFF

/-- A timestamp of none is all ones in its 8-byte field (R181). -/
def stampOrNone : Option Stamp → Nat
  | some t => t.toNat
  | none => 0xFFFFFFFFFFFFFFFF

/-- The temperature none marker (R181). -/
def noTemperature : Int := -32768

/-- Largest coordinate component, 2^39 − 1 nm (R162). -/
def coordinateLimit : Int := 549755813887

end Sys2Proof.Machine
end

