-- ==== Sys2Proof/Machine/Memory.lean ====
section
/-! DEFINITION. The 4 MiB exchange memory (R1): a list of (offset, byte) pairs in one canonical form, offsets strictly
rising, no listed byte equal to what an unlisted offset reads as (0: notes/assumptions/1.md), and the reads and writes of it. -/

namespace Sys2Proof.Machine

/-- The exchange memory's listed bytes. -/
abbrev Mem := List Host.Cell

/-- First offset beyond the exchange memory (R1). -/
def memSize : Nat := 0x400000

/-- What an unlisted offset reads as. DESIGN CHOICE, unsafe: notes/assumptions/1.md. -/
def unlistedByte : Byte := 0#8

/-- The byte at an offset. -/
def readByte : Mem → Nat → Byte
  | [], _ => unlistedByte
  | (k, v) :: t, a => if k = a then v else readByte t a

/-- The `n` bytes from an offset on. -/
def readBytes (m : Mem) (a : Nat) : Nat → List Byte
  | 0 => []
  | n + 1 => readByte m a :: readBytes m (a + 1) n

/-- The little-endian field of `n` bytes at an offset. -/
def readNat (m : Mem) (a n : Nat) : Nat := leNat (readBytes m a n)

/-- The cells that list these bytes from offset `a` on: those that differ from an unlisted byte. -/
def listedCells (a : Nat) : List Byte → Mem
  | [] => []
  | b :: t => if b = unlistedByte then listedCells (a + 1) t else (a, b) :: listedCells (a + 1) t

/-- The bytes of a write that fall inside the exchange memory. -/
def inMemory (a : Nat) (bs : List Byte) : List Byte := bs.take (memSize - a)

/-- The memory with the bytes written from offset `a` on; every other byte is kept, and nothing is listed beyond the memory's end. -/
def writeBytes (m : Mem) (a : Nat) (bs : List Byte) : Mem :=
  m.filter (fun c => c.1 < a) ++ (listedCells a (inMemory a bs) ++ m.filter (fun c => a + bs.length ≤ c.1))

/-- Every offset of the list is above `lo` and the offsets rise strictly; no byte is the unlisted one; all lie in the memory. -/
def cellsWf : Option Nat → Mem → Bool
  | _, [] => true
  | lo, (k, v) :: t =>
    (match lo with
      | none => true
      | some l => decide (l < k)) && (decide (k < memSize) && (decide (v ≠ unlistedByte) && cellsWf (some k) t))

/-- The canonical form of the exchange memory. -/
def memWf (m : Mem) : Bool := cellsWf none m

/-- First offset of plan slot `n` (R1). -/
def slotBase (n : Nat) : Nat := 0x010000 + n * 0x1000

/-- First offset of result page `n` (R1). -/
def pageBase (n : Nat) : Nat := 0x100000 + n * 0x1000

/-- First offset of the installation block (R1, section 11.8). -/
def installBase : Nat := 0x008000

/-- Number of plan slots (R1). -/
def slotCount : Nat := 128

/-- Number of result pages (R1). -/
def pageCount : Nat := 512

/-- Slot tag codes (section 11.3). -/
def tagFree : Nat := 0x504C0001
def tagPosted : Nat := 0x504C0002
def tagLibrary : Nat := 0x504C0003
def tagTaken : Nat := 0x504C0004
def tagDone : Nat := 0x504C0005

/-- Page tag codes (section 11.3). -/
def tagHost : Nat := 0x50470001
def tagGiven : Nat := 0x50470002
def tagFilling : Nat := 0x50470003
def tagFilled : Nat := 0x50470004

/-- A tag word: the aligned 32-bit word at the head of a slot or page (R1). -/
def readTag (m : Mem) (base : Nat) : Nat := readNat m base 4

/-- The tag word replaced. -/
def writeTag (m : Mem) (base tag : Nat) : Mem := writeBytes m base (leBytes 4 tag)

end Sys2Proof.Machine
end

