-- ==== Sys2Proof/Machine/Types.lean ====
section
/-! DEFINITION. The state of each block of the LT-62 as plain data, in the spec's own names (spec/00_scope.md section 2 lists the
blocks). Machine/State.lean joins them into the machine's state. -/

namespace Sys2Proof.Machine

/-! ### Timers -/

/-- A running timer: the timestamp at its start and its length in µs (notes/assumptions/4.md). -/
structure Timer where
  start : Stamp
  len : Nat
deriving DecidableEq, Repr

/-! ### Exchange port -/

/-- Device states (section 1.6). -/
inductive DeviceState where
  | stopped
  | starting
  | running
  | stopping
deriving DecidableEq, Repr

/-- AREA_ERROR codes (R10, section 11.2). -/
inductive AreaCode where
  | none
  | installAxis
  | installFrame
  | installZone
  | installRack
  | installThermal
  | installLimits
  | slotTag
  | pageTag
  | slotHeader
  | tagConflict
deriving DecidableEq, Repr

/-- Result of the last START (R11). -/
inductive StartResult where
  | none
  | ok
  | failed (code : AreaCode)
deriving DecidableEq, Repr

/-- One section's update counter, and whether a rewrite is in progress and another is marked (R17). -/
structure SectionState where
  counter : BitVec 32
  busy : Bool
  marked : Bool
deriving DecidableEq, Repr

/-- What the part sends on the head, rack, drive and thermal links during one command. -/
inductive LinkOut where
  | lock (arm : Arm)
  | release (arm : Arm)
  | supply (arm : Arm) (on : Bool)
  | index (arm : Arm) (tilt swivel : Nat)
  | halt (arm : Arm)
  | identityRequest (arm : Arm)
  | deflectionRequest (arm : Arm)
  | openLid (port : Nat)
  | closeLid (port : Nat)
  | rackStatusRequest
  | enableDrives (arm : Arm)
  | standbyRequest (arm : Arm)
  | standbyWithdrawn (arm : Arm)
  | readRequest (address : Nat)
  | releaseSequence
deriving DecidableEq, Repr

/-! ### Faults and outcomes -/

/-- The fault codes an outcome or an arm section carries (section 11.4). -/
inductive FaultCode where
  | none
  | badItem
  | badProbeIndex
  | notHomed
  | callTarget
  | stackOverflow
  | libraryGone
  | mapArm
  | mapRange
  | mapOverlap
  | locationConflict
  | identMismatch
  | headUnidentified
  | slotRevoked
  | travelLimit
  | followingError
  | driveFault
  | scaleFault
  | zoneDeadlock
  | zoneTimeout
  | probeAbsent
  | probeArm
  | probeNone
  | probeKind
  | orientUnqualified
  | probeNotReady
  | probeExpired
  | tempExpired
  | headTimeout
  | supplyFault
  | rackTimeout
  | portNotEmpty
  | lidTimeout
  | lidJam
  | releaseFault
  | dropUnconfirmed
  | portEmpty
  | lockFault
  | pickUnconfirmed
  | touchMissed
  | unexpectedContact
  | deflectionLimit
deriving DecidableEq, Repr

/-- Outcome codes (section 2.8, section 11.4). -/
inductive PlanOutcome where
  | completed
  | withdrawn
  | aborted
  | failed
  | stopped
  | stale
  | interrupted
deriving DecidableEq, Repr

/-! ### Probe table -/

/-- Kind of a probe; entry 0 has none (R86). -/
inductive ProbeKind where
  | none
  | touch
  | scan
deriving DecidableEq, Repr

/-- The arms on whose heads a probe may be mounted (R86). -/
inductive Permission where
  | onlyA
  | onlyB
  | both
deriving DecidableEq, Repr

/-- The permission admits an arm. -/
def Permission.allows : Permission → Arm → Bool
  | .onlyA, .A => true
  | .onlyA, .B => false
  | .onlyB, .A => false
  | .onlyB, .B => true
  | .both, _ => true

/-- Where a probe is (R86). -/
inductive Location where
  | unknown
  | port (n : Nat)
  | arm (a : Arm)
deriving DecidableEq, Repr

/-- Whether a probe's tip offsets are trusted (R86). -/
inductive Qualification where
  | qualified
  | expired
  | unqualified
deriving DecidableEq, Repr

/-- One entry of an orientation list (R86). -/
structure OrientEntry where
  tilt : Nat
  swivel : Nat
  offset : Vec3
deriving DecidableEq, Repr

/-- A probe descriptor (R86). -/
structure Probe where
  present : Bool
  kind : ProbeKind
  identity : Nat
  permission : Permission
  homePort : Nat
  location : Location
  speedLimit : Nat
  settle : Nat
  overtravel : Nat
  qualification : Qualification
  tq : Int
  orients : List OrientEntry
deriving DecidableEq, Repr

/-- Entry 0, the null probe (R86; the fields it does not state are 0: notes/assumptions/10.md). -/
def Probe.null : Probe :=
  { present := true, kind := .none, identity := 0, permission := .both, homePort := 0, location := .unknown, speedLimit := 0,
    settle := 0, overtravel := 0, qualification := .unqualified, tq := 0, orients := [] }

/-- An entry 1..31 after power-on and SOFT_RESET (R86). -/
def Probe.blank : Probe :=
  { present := false, kind := .touch, identity := 0, permission := .both, homePort := 0, location := .unknown, speedLimit := 0,
    settle := 0, overtravel := 0, qualification := .unqualified, tq := 0, orients := [] }

/-- Context state (R88). -/
inductive ContextState where
  | none
  | ready
  | unpowered
deriving DecidableEq, Repr

/-- An arm's active probe context: the copy of a descriptor, its state and the selected orientation entry (section 5.2). -/
structure Context where
  index : Nat
  copy : Probe
  state : ContextState
  selected : Option OrientEntry
deriving DecidableEq, Repr

/-- The context of an empty head: a copy of entry 0, NONE (R88). -/
def Context.null : Context := { index := 0, copy := Probe.null, state := .none, selected := none }

/-- Head occupancy (R88). -/
inductive Occupancy where
  | empty
  | probe (p : Nat)
  | unidentified
deriving DecidableEq, Repr

/-- What the probe table keeps for one arm's head (section 5.2). -/
structure Head where
  occ : Occupancy
  orient : Option (Nat × Nat)
  ctx : Context
  supplyOn : Bool
  /-- The supply has passed its first comparison (R100). -/
  supplyChecked : Bool
  shadow : Option Timer
deriving DecidableEq, Repr

/-! ### Items (sections 2.3 and 11.5) -/

/-- The fields of a TOUCH item. -/
structure TouchFields where
  target : Vec3
  touchFeed : Nat
  measureFeed : Nat
  retractFeed : Nat
  backoff : Nat
  retries : Nat
deriving DecidableEq, Repr

/-- The fields of a SCAN item. -/
structure ScanFields where
  feed : Nat
  period : Nat
  lo : Nat
  hi : Nat
  maxPoints : Nat
  waypoints : List Vec3
deriving DecidableEq, Repr

/-- The fields an UPDATE_PROBE selects, each with its value (R92); a qualification of `some tq` is QUALIFIED with that Tq. -/
structure ProbeUpdate where
  entry : Nat
  present : Option Bool
  kind : Option ProbeKind
  identity : Option Nat
  permission : Option Permission
  homePort : Option Nat
  speedLimit : Option Nat
  settle : Option Nat
  overtravel : Option Nat
  qualification : Option (Option Int)
  orients : Option (List OrientEntry)
  single : Option (Nat × OrientEntry)
deriving DecidableEq, Repr

/-- The fields of a LOAD_MAP item as they stand in the item; the coordinate unit judges them (R165). -/
structure LoadMapFields where
  arm : Nat
  i : Nat
  j : Nat
  m : Nat
  count : Nat
  base : Nat
  s0 : Int
  nodes : List Int
deriving DecidableEq, Repr

/-- An item that has passed the checks of its fetch (R29, R30). -/
inductive Item where
  | move (target : Vec3) (feed : Nat)
  | dwell (time : Nat)
  | home
  | touch (f : TouchFields)
  | scan (f : ScanFields)
  | head (tilt swivel : Nat)
  | change (probe : Nat)
  | call (slot : Nat)
  | returnItem
  | repeatItem (count : Nat) (step : Vec3)
  | mark (tag : Nat)
  | updateProbe (u : ProbeUpdate)
  | setLocation (probe : Nat) (location : Location)
  | loadMap (f : LoadMapFields)
  | clearMap (arm i j : Nat)
  | setPart (datum : Vec3) (alpha : Nat) (on : Bool)
deriving DecidableEq, Repr

/-! ### Arm executor (section 2.3) -/

/-- What the executor copies from the header at take (R20); a policy code that is neither value stays as read until R29 judges it. -/
structure Plan where
  slot : Nat
  seq : Nat
  len : Nat
  miss : Nat
  expiredProbe : Nat
  expiredTemp : Nat
deriving DecidableEq, Repr

/-- Repeat state (R40, R41). -/
structure RepeatState where
  remaining : Nat
  iteration : Nat
  step : Vec3
  base : Vec3
deriving DecidableEq, Repr

/-- A call-stack entry (section 2.4). -/
structure CallEntry where
  slot : Nat
  index : Nat
  offset : Nat
  savedOffset : Vec3
  rep : Option RepeatState
deriving DecidableEq, Repr

/-- An arm executor. -/
structure Executor where
  plan : Option Plan
  slot : Nat
  slotLen : Nat
  index : Nat
  offset : Nat
  /-- Call stack, newest entry first. -/
  stack : List CallEntry
  rep : Option RepeatState
  pattern : Vec3
  itemsDone : Nat
  feedsClamped : Nat
  warnArmed : Bool
  /-- The header check of R29 is due at the next fetch: the first fetch of a slot, or the one after a return into a library slot. -/
  headerDue : Bool
  /-- The policy check of R29 is due: the first fetch of the plan. -/
  policyDue : Bool
  /-- The item fetched and handed on, and its length. -/
  item : Option Item
  itemLen : Nat
deriving DecidableEq, Repr

/-! ### Motion generator (chapter 3) -/

/-- Arm states (section 3.2). -/
inductive ArmState where
  | unhomed
  | homing
  | idle
  | waking
  | running
  | zoneWait
  | rackWait
  | roomWait
  | held
  | faulted
  | standby
  | estop
deriving DecidableEq, Repr

/-- What a segment belongs to (section 3.3); a HOME segment carries the axes whose search is not yet done. -/
inductive SegKind where
  | move
  | pass1
  | pass2
  | backoff
  | retractRetry
  | retractEnd
  | leg (k : Nat)
  | changeMove
  | home (rest : List Axis)
deriving DecidableEq, Repr

/-- A segment that is asked for: its kind, target, requested feed and the points its swept box takes besides the start (R75). -/
structure SegReq where
  kind : SegKind
  target : Vec3
  feed : Nat
  sweep : List Vec3
deriving DecidableEq, Repr

/-- The profile of a straight path (R55): the path acceleration divided by the path length as a ratio (µm/s² per nm), the squared path
length in nm², and whether it is a triangle. -/
structure PathProfile where
  accNum : Nat
  accDen : Nat
  pathSq : Nat
  triangle : Bool
deriving DecidableEq, Repr

/-- The profile of a segment (R55). -/
inductive Profile where
  | path (p : PathProfile)
  /-- A HOME search: the one axis that moves, the sign of its counting direction, and its own acceleration limit (R55, R63). -/
  | search (axis : Axis) (direction : Int) (accel : Nat)
deriving DecidableEq, Repr

/-- The segment held by the motion generator (R52). -/
structure Segment where
  req : SegReq
  start : Vec3
  effective : Nat
  profile : Profile
  /-- For a HOME search: the reference mark of the searching axis has been reported. -/
  marked : Bool
  /-- When its profile began: a trigger edge up to then is none of this segment's (R119, R125, R128). -/
  begun : Stamp
deriving DecidableEq, Repr

/-- What an arm that is coming to rest is stopping for (R56, R67). -/
structure Stop where
  hold : Bool
  ending : Option PlanOutcome
  fault : Option FaultCode
  drivesOff : Bool
  reset : Bool
deriving DecidableEq, Repr

/-- A stop for nothing but the end of a probing pass. -/
def Stop.plain : Stop := { hold := false, ending := none, fault := none, drivesOff := false, reset := false }

/-- The steps of a probe change (R111 to R114); D4, D6 and P4 take no time. -/
inductive ChangeStep where
  | claim
  | d1
  | d2
  | d3
  | d5
  | d7
  | d8move
  | d8close
  | p1
  | p2open
  | p2dock
  | p3lock
  | p3unlock
  | p5
  | p6
  | p7move
  | p7confirm
  | p8
  /-- IDENT_MISMATCH has been raised at P6; a RESUME ends the plan (R116). -/
  | mismatch
deriving DecidableEq, Repr

/-- The change record (R108). -/
structure Change where
  target : Nat
  step : ChangeStep
  port : Nat
  probe : Nat
  attempts : Nat
  opened : List Nat
  /-- The 500 ms confirmation of P7 that a RESUME from PICK_UNCONFIRMED has started (R115). -/
  confirm : Option Timer
deriving DecidableEq, Repr

/-- Resume points (section 3.6.1). -/
inductive ResumePoint where
  | segment (r : SegReq)
  | dwell (remaining : Nat)
  | home (rest : List Axis)
  | zones (r : SegReq)
  | rack
  | room
  /-- A step of a change (R117). -/
  | changeStep (step : ChangeStep)
  /-- The whole item at the item pointer. -/
  | item
  /-- The whole TOUCH after TOUCH_MISSED: PASS1 at attempt 1, with S and the room kept (R127). -/
  | touchAgain
  | boundary
deriving DecidableEq, Repr

/-- What an arm is doing at the moment. The constructors marked "within a command" never stand between two commands. -/
inductive Doing where
  | nothing
  /-- An item has been fetched and handed on; its own step comes next. -/
  | handed
  /-- Within a command: a zone claim is pending (R79). -/
  | claiming (r : SegReq)
  /-- In ZONE_WAIT for the needed set (R77), with the wait timer if there is a limit. -/
  | zoneWait (r : SegReq) (need : List Nat) (timer : Option Timer)
  /-- Within a command: the zones are granted and the start goes on at step 3 of R53. -/
  | granted (r : SegReq)
  /-- The start of a probing segment waits for the shadow to end (R99). -/
  | shadowWait (r : SegReq)
  /-- The drives are enabled and the ready reports awaited (R60). -/
  | driveWait (r : SegReq) (effective : Nat) (ready : Axes Bool) (timer : Timer)
  /-- A segment is in flight (R52). -/
  | inFlight (seg : Segment)
  | dwelling (timer : Timer)
  /-- A HEAD item awaits its done report (R97). -/
  | indexing (timer : Timer)
  /-- A SET_LOCATION to the head is at its supply step, or at its identity step (R95). -/
  | locating (identity : Bool) (timer : Timer)
  /-- Within a command: a rack claim is pending (R105). -/
  | rackAsk
  /-- Within a command: the rack is granted and the next phase is decided (R108). -/
  | rackHeld
  | rackWait (timer : Timer)
  /-- A change step that is not a move, with its timer (R110 to R114). -/
  | changing (timer : Timer)
  | roomWait
  /-- Within a command: the room asked for is granted (R123). -/
  | roomHeld
  /-- The last leg of a SCAN is complete and the sample in flight is awaited (R131). -/
  | awaitSample (r : SegReq)
  /-- The arm is at rest and its plan's end awaits the sample in flight (R134). -/
  | ending (outcome : PlanOutcome) (fault : FaultCode)
deriving DecidableEq, Repr

/-- A motion generator. -/
structure Motion where
  state : ArmState
  doing : Doing
  /-- The stop under way of the segment in flight. -/
  stop : Option Stop
  resume : Option ResumePoint
  lastFault : FaultCode
  /-- The position the arm section shows (R49). -/
  shown : Vec3
  /-- Each of the three drives: enabled or off (R60). -/
  drives : Axes Bool
  /-- The position the enabled drives are commanded to hold while no profile runs, where the spec says which: the scale position at the
  enable (R59), the target after a completed segment (notes/assumptions/49.md). -/
  commanded : Option Vec3
  /-- The standby request stands on the three drive links (R70). -/
  standby : Bool
  idleTimer : Option Timer
  wakeTimer : Option Timer
  /-- A HOLD waits for the item boundary or the end of the wake (R64). -/
  holdPending : Bool
  /-- In ESTOP: the arm was FAULTED at the assertion or took SCALE_FAULT since (R69). -/
  estopFaulted : Bool
deriving DecidableEq, Repr

/-! ### Scale interface (R47, R119) -/

/-- What filled a latch. -/
inductive LatchSource where
  | trigger
  | sample
deriving DecidableEq, Repr

/-- The contents of a full latch. -/
structure Latch where
  counts : Counts
  time : Stamp
  source : LatchSource
deriving DecidableEq, Repr

/-- The scale interface's part for one arm. -/
structure Scale where
  count : Counts
  cref : Counts
  /-- Signal state of each axis: OK or LOST. -/
  signal : Axes Bool
  homed : Bool
  latch : Option Latch
deriving DecidableEq, Repr

/-! ### Capture unit (R122) -/

/-- The item record of a capture unit. -/
inductive CaptureItem where
  | touch (f : TouchFields)
  | scan (f : ScanFields)
deriving DecidableEq, Repr

/-- The phases of a TOUCH and of a SCAN (R122). -/
inductive CapturePhase where
  | idle
  | room
  | pass1
  | backoff
  | pass2
  | retractRetry
  | retractEnd
  | leg (k : Nat)
deriving DecidableEq, Repr

/-- A sample in flight (R132): its counts and time, the 1 ms timer of its reply, and the context copy of its own segment (R135). -/
structure Sample where
  counts : Counts
  time : Stamp
  timer : Timer
  ctx : Context
deriving DecidableEq, Repr

/-- A capture unit. -/
structure Capture where
  item : Option CaptureItem
  startPos : Vec3
  phase : CapturePhase
  attempts : Nat
  hit : Option Vec3
  /-- The point of the TOUCH has been handed on (R126). -/
  pointTaken : Bool
  /-- The context copy taken at the start of the last probing segment (R135). -/
  ctx : Context
  sampleTimer : Option Timer
  sample : Option Sample
  points : Nat
  dropped : Nat
  ignoredTriggers : BitVec 16
deriving DecidableEq, Repr

/-! ### Result writer (R171) -/

/-- A page of a chain with the number of records the writer has placed in it. -/
structure ChainPage where
  page : Nat
  count : Nat
deriving DecidableEq, Repr

/-- A waiting room request: the records asked for and the time it was made. -/
structure RoomRequest where
  n : Nat
  time : Stamp
deriving DecidableEq, Repr

/-- The plan counts (R179). -/
structure PlanCounts where
  written : Nat
  firstPage : Option Nat
  lastPage : Option Nat
  dropped : Nat
  envMin : Int
  envMax : Int
deriving DecidableEq, Repr

/-- The plan counts at power-on and at a take (R171). -/
def PlanCounts.fresh : PlanCounts :=
  { written := 0, firstPage := none, lastPage := none, dropped := 0, envMin := noTemperature, envMax := noTemperature }

/-- The result writer's part for one arm. -/
structure Writer where
  chain : List ChainPage
  lastKept : Option Nat
  grant : Option Nat
  waiting : Option RoomRequest
  recSeq : BitVec 32
  counts : PlanCounts
deriving DecidableEq, Repr

/-! ### One arm -/

/-- Everything the blocks keep for one arm. -/
structure ArmRec where
  scale : Scale
  mot : Motion
  exec : Executor
  cap : Capture
  head : Head
  wr : Writer
  change : Option Change
  /-- Expected sequence number (R21). -/
  expected : BitVec 16
deriving DecidableEq, Repr

/-! ### Installation constants (section 1.5) -/

/-- Axis group, one axis. -/
structure AxisConst where
  u : Nat
  following : Nat
  accel : Nat
  creep : Nat
  alpha : Nat
  home : Int
  lower : Int
  upper : Int
deriving DecidableEq, Repr

/-- Frame group, one axis: the sign +1 or −1 and the offset in nm. -/
structure FrameConst where
  sign : Int
  offset : Int
deriving DecidableEq, Repr

/-- Limits group, one arm. -/
structure ArmLimits where
  maxFeed : Nat
  band : Nat
  idleTimeout : Nat
  wakeTime : Nat
  qXY : Int
  qXZ : Int
  qYZ : Int
deriving DecidableEq, Repr

/-- The constants that hold from one START to the next, less the tables that the zone arbiter, the rack record and the channel
table take over. -/
structure Consts where
  axes : PerArm (Axes AxisConst)
  frame : PerArm (Axes FrameConst)
  half : PerArm (Axes Nat)
  zoneWait : Nat
  lockRetries : Nat
  rackWait : Nat
  cyclePeriod : Nat
  missLimit : Nat
  holdLimit : Nat
  spreadLimit : Nat
  requalBand : Nat
  rescan : Nat
  /-- Call-stack region sizes (section 2.4). -/
  regions : PerArm Nat
  supplyLimit : Nat
  arms : PerArm ArmLimits
deriving DecidableEq, Repr

/-! ### Zone arbiter (section 4.3) -/

/-- A closed box in the common frame. -/
structure Box where
  lo : Vec3
  hi : Vec3
deriving DecidableEq, Repr

/-- A zone record. -/
structure Zone where
  inUse : Bool
  box : Box
  speedLimit : Nat
  holder : Option Arm
  waiter : Option Arm
  waitStart : Option Stamp
deriving DecidableEq, Repr

/-! ### Change sequencer (R102) -/

/-- One port of the rack record. -/
structure Port where
  approach : Vec3
  dock : Vec3
  probe : Option Nat
  occ : PortOcc
  lid : Lid
deriving DecidableEq, Repr

/-- The rack record, with its waiter, its tie order and the outstanding status request. -/
structure Rack where
  holder : Option Arm
  zone : Option Nat
  ports : List Port
  waiter : Option Arm
  tie : Arm
  statusTimer : Option Timer
  /-- Ports whose status reply is awaited. -/
  statusDue : List Nat
  /-- Ports whose status reply did not come in time: UNKNOWN until their next occupancy report (R103). -/
  missed : List Nat
deriving DecidableEq, Repr

/-! ### Thermal monitor (chapter 8) -/

/-- Roles of a channel (R141); SCALE of an axis names its arm. -/
inductive Role where
  | spare
  | scale (arm : Arm) (axis : Axis)
  | part (arm : Arm)
  | air
deriving DecidableEq, Repr

/-- Channel states (section 8.4). -/
inductive ChanState where
  | disabled
  | fresh
  | aged
  | failed
deriving DecidableEq, Repr

/-- A channel record (R141). -/
structure Chan where
  address : Nat
  role : Role
  enabled : Bool
  state : ChanState
  value : Int
  lastGood : Option Stamp
  misses : Nat
  alarmLow : Int
  alarmHigh : Int
  rateLimit : Nat
  rate : Int
  low : Bool
  high : Bool
  rateFlag : Bool
deriving DecidableEq, Repr

/-- A channel record after power-on (R141). -/
def Chan.blank : Chan :=
  { address := 0, role := .spare, enabled := false, state := .disabled, value := 0, lastGood := none, misses := 0, alarmLow := 0,
    alarmHigh := 0, rateLimit := 0, rate := 0, low := false, high := false, rateFlag := false }

/-- Group states (R147). -/
inductive GroupState where
  | none
  | live
  | held
  | expired
deriving DecidableEq, Repr

/-- A group record (R147). -/
structure Group where
  state : GroupState
  value : Int
  spread : Nat
  spreadFlag : Bool
  holdStart : Option Stamp
deriving DecidableEq, Repr

/-- A group with no channel (R149, R150). -/
def Group.blank : Group := { state := .none, value := 0, spread := 0, spreadFlag := false, holdStart := none }

/-- The nine groups in the order of section 11.7. -/
structure Groups where
  scale : PerArm (Axes Group)
  part : PerArm Group
  air : Group
deriving DecidableEq, Repr

/-- The published set (R151). -/
structure Published where
  groups : Groups
  partRate : PerArm Bool
deriving DecidableEq, Repr

/-- Where the read in progress stands (R136, R137). -/
inductive ReadPhase where
  | waitWire
  | releasing
  | reply (timer : Timer)
deriving DecidableEq, Repr

/-- A cycle in progress: the channel being read, where its read stands, and whether a STOP has abandoned the cycle (R140). -/
structure Cycle where
  chan : Nat
  phase : ReadPhase
  abandoned : Bool
deriving DecidableEq, Repr

/-- The thermal monitor. -/
structure Thermal where
  chans : List Chan
  groups : Groups
  published : Published
  lineStuck : BitVec 16
  overruns : BitVec 16
  cycle : Option Cycle
  pendingCycle : Bool
  /-- The next due time of the cycle period (R138). -/
  due : Option Timer
  /-- The data wire as the monitor last found it. -/
  wire : Wire
  /-- What the thermal channels section shows: the records and counts as of the last cycle end, START or reset (R139). -/
  shownChans : List Chan
  shownStuck : BitVec 16
  shownOverruns : BitVec 16
deriving DecidableEq, Repr

/-! ### Coordinate unit (chapter 9) -/

/-- A loaded map descriptor (R155). -/
structure MapDesc where
  s0 : Int
  m : Nat
  count : Nat
  base : Nat
deriving DecidableEq, Repr

/-- An arm's part settings (R168). -/
structure PartSetting where
  datum : Vec3
  alpha : Nat
  on : Bool
deriving DecidableEq, Repr

/-- The map store and the part settings: 4,096 nodes, and per arm the nine descriptors by source axis and direction. -/
structure MapStore where
  nodes : List Int
  descs : PerArm (Axes (Axes (Option MapDesc)))
  parts : PerArm PartSetting
deriving DecidableEq, Repr

end Sys2Proof.Machine
end

