-- ==== Sys2Proof/Machine/Layout.lean ====
section
/-! DEFINITION. Chapter 11's codes and byte layouts of what the part writes: the status-block sections, the outcome area, a page
header and a record. Every encoder gives the bytes in order, reserved bytes as 0 (R182). -/

namespace Sys2Proof.Machine

/-! ### Codes -/

/-- Device state code of STATE and the device section (section 11.2). -/
def deviceCode : DeviceState → Nat
  | .stopped => 0
  | .starting => 1
  | .running => 2
  | .stopping => 3

/-- AREA_ERROR code (section 11.2). -/
def areaNat : AreaCode → Nat
  | .none => 0
  | .installAxis => 1
  | .installFrame => 2
  | .installZone => 3
  | .installRack => 4
  | .installThermal => 5
  | .installLimits => 6
  | .slotTag => 7
  | .pageTag => 8
  | .slotHeader => 9
  | .tagConflict => 10

/-- START result code of STATE (section 11.2). -/
def startResultCode : StartResult → Nat
  | .none => 0
  | .ok => 15
  | .failed c => areaNat c

/-- Fault code (section 11.4). -/
def faultNat : FaultCode → Nat
  | .none => 0x00
  | .badItem => 0x01
  | .badProbeIndex => 0x02
  | .notHomed => 0x03
  | .callTarget => 0x04
  | .stackOverflow => 0x05
  | .libraryGone => 0x06
  | .mapArm => 0x07
  | .mapRange => 0x08
  | .mapOverlap => 0x09
  | .locationConflict => 0x0A
  | .identMismatch => 0x0B
  | .headUnidentified => 0x0C
  | .slotRevoked => 0x0D
  | .travelLimit => 0x20
  | .followingError => 0x21
  | .driveFault => 0x22
  | .scaleFault => 0x23
  | .zoneDeadlock => 0x24
  | .zoneTimeout => 0x25
  | .probeAbsent => 0x26
  | .probeArm => 0x27
  | .probeNone => 0x28
  | .probeKind => 0x29
  | .orientUnqualified => 0x2A
  | .probeNotReady => 0x2B
  | .probeExpired => 0x2C
  | .tempExpired => 0x2D
  | .headTimeout => 0x2E
  | .supplyFault => 0x2F
  | .rackTimeout => 0x30
  | .portNotEmpty => 0x31
  | .lidTimeout => 0x32
  | .lidJam => 0x33
  | .releaseFault => 0x34
  | .dropUnconfirmed => 0x35
  | .portEmpty => 0x36
  | .lockFault => 0x37
  | .pickUnconfirmed => 0x38
  | .touchMissed => 0x39
  | .unexpectedContact => 0x3A
  | .deflectionLimit => 0x3B

/-- Outcome code (section 11.4). -/
def outcomeCode : PlanOutcome → Nat
  | .completed => 1
  | .withdrawn => 2
  | .aborted => 3
  | .failed => 4
  | .stopped => 5
  | .stale => 6
  | .interrupted => 7

/-- Arm code: 1 A, 2 B (section 11.5). -/
def armCode : Arm → Nat
  | .A => 1
  | .B => 2

/-- Holder and waiter code (section 11.7). -/
def holderCode : Option Arm → Nat
  | none => 0
  | some a => armCode a

/-- Arm state code (section 11.7). -/
def armStateCode : ArmState → Nat
  | .unhomed => 0
  | .homing => 1
  | .idle => 2
  | .waking => 3
  | .running => 4
  | .zoneWait => 5
  | .rackWait => 6
  | .roomWait => 7
  | .held => 8
  | .faulted => 9
  | .standby => 10
  | .estop => 11

/-- Occupancy code (section 11.7). -/
def occupancyCode : Occupancy → Nat
  | .empty => 0
  | .probe _ => 1
  | .unidentified => 2

/-- Context state code (section 11.7). -/
def contextCode : ContextState → Nat
  | .none => 0
  | .ready => 1
  | .unpowered => 2

/-- Port occupancy code (section 11.7). -/
def portOccCode : PortOcc → Nat
  | .unknown => 0
  | .empty => 1
  | .occupied => 2

/-- Lid code (section 11.7). -/
def lidCode : Lid → Nat
  | .closed => 0
  | .opened => 1
  | .moving => 2
  | .jammed => 3

/-- Channel state code (section 11.7). -/
def chanStateCode : ChanState → Nat
  | .disabled => 0
  | .fresh => 1
  | .aged => 2
  | .failed => 3

/-- Group state code (section 11.7). -/
def groupStateCode : GroupState → Nat
  | .none => 0
  | .live => 1
  | .held => 2
  | .expired => 3

/-- Role code (section 11.7). -/
def roleCode : Role → Nat
  | .spare => 0
  | .scale .A .X => 1
  | .scale .A .Y => 2
  | .scale .A .Z => 3
  | .scale .B .X => 4
  | .scale .B .Y => 5
  | .scale .B .Z => 6
  | .part .A => 7
  | .part .B => 8
  | .air => 9

/-- Qualification code (section 11.7). -/
def qualificationCode : Qualification → Nat
  | .qualified => 1
  | .expired => 2
  | .unqualified => 3

/-- Probe kind code; 0 none only for entry 0 (section 11.7). -/
def probeKindCode : ProbeKind → Nat
  | .none => 0
  | .touch => 1
  | .scan => 2

/-- Permission code (section 11.5). -/
def permissionCode : Permission → Nat
  | .onlyA => 1
  | .onlyB => 2
  | .both => 3

/-- Location kind and number codes of the mirror (section 11.7). -/
def locationCode : Location → Nat × Nat
  | .unknown => (1, 0)
  | .port n => (2, n)
  | .arm a => (3, armCode a)

/-! ### Values shown -/

/-- The repeat iteration of the item in execution (R42). -/
def repeatIteration (e : Executor) : Nat :=
  match e.rep with
  | some r => r.iteration
  | none =>
    match e.stack.findSome? (fun c => c.rep) with
    | some r => r.iteration
    | none => 0

/-- The current page of a chain: the first that holds fewer than 63 records; closed pages have left the chain (R171). -/
def currentPage (w : Writer) : Option Nat := (w.chain.find? (fun c => c.count < 63)).map (fun c => c.page)

/-! ### Status sections (section 11.7), each without its update counter -/

/-- Offset of a section in the exchange memory. -/
def sectionBase : Section → Nat
  | .device => 0x0000
  | .armA => 0x0040
  | .armB => 0x00C0
  | .zones => 0x0140
  | .rack => 0x0380
  | .thermal => 0x0400
  | .temperatures => 0x0800
  | .mirror => 0x0900
  | .maps => 0x1E00

/-- The device section. -/
def deviceSection (d : DeviceState) (r : StartResult) (estop : Bool) (code : AreaCode) (offset : BitVec 22) (now : Stamp) : List Byte :=
  leBytes 1 (deviceCode d) ++ leBytes 1 (startResultCode r) ++ leBytes 1 (boolByte estop) ++ zeros 1 ++ leBytes 1 (areaNat code) ++
    zeros 3 ++ leBytes 4 offset.toNat ++ leBytes 8 now.toNat

/-- Three 8-byte signed components. -/
def vec8 (v : Vec3) : List Byte := leSigned 8 v.x ++ leSigned 8 v.y ++ leSigned 8 v.z

/-- Tilt and swivel, 0xFF each when UNKNOWN (R181). -/
def orientBytes : Option (Nat × Nat) → List Byte
  | some (t, w) => leBytes 1 t ++ leBytes 1 w
  | none => leBytes 1 0xFF ++ leBytes 1 0xFF

/-- An arm's section; the sequence bytes are 0 without a taken plan (notes/assumptions/51.md). -/
def armSection (r : ArmRec) : List Byte :=
  leBytes 1 (armStateCode r.mot.state) ++ leBytes 1 (boolByte r.scale.homed) ++ leBytes 2 (faultNat r.mot.lastFault) ++
    leBytes 2 (indexOrNone (r.exec.plan.map (fun p => p.slot))) ++ leBytes 2 ((r.exec.plan.map (fun p => p.seq)).getD 0) ++
    leBytes 2 r.exec.index ++ leBytes 1 r.exec.stack.length ++ leBytes 1 (repeatIteration r.exec) ++ leBytes 2 r.expected.toNat ++
    vec8 r.mot.shown ++ leBytes 1 (occupancyCode r.head.occ) ++ leBytes 1 r.head.ctx.index ++ leBytes 1 (contextCode r.head.ctx.state) ++
    orientBytes r.head.orient ++ zeros 1 ++ leBytes 2 (indexOrNone (currentPage r.wr)) ++ leBytes 2 r.cap.ignoredTriggers.toNat

/-- One zone record. -/
def zoneBytes (z : Zone) : List Byte :=
  leBytes 1 (boolByte z.inUse) ++ leBytes 1 (holderCode z.holder) ++ leBytes 1 (holderCode z.waiter) ++ zeros 1 ++ leBytes 4 z.speedLimit ++
    vec8 z.box.lo ++ vec8 z.box.hi ++ leBytes 8 (stampOrNone z.waitStart)

/-- The zones section. -/
def zonesSection (zs : List Zone) : List Byte := zs.flatMap zoneBytes

/-- The rack section. -/
def rackSection (r : Rack) : List Byte :=
  leBytes 1 (holderCode r.holder) ++ zeros 3 ++
    r.ports.flatMap (fun p => leBytes 1 (p.probe.getD 0xFF) ++ leBytes 1 (portOccCode p.occ) ++ leBytes 1 (lidCode p.lid) ++ zeros 1)

/-- The LOW, HIGH and RATE flags as one byte. -/
def chanFlags (c : Chan) : Nat := boolByte c.low + 2 * boolByte c.high + 4 * boolByte c.rateFlag

/-- One channel record. -/
def chanBytes (c : Chan) : List Byte :=
  leBytes 1 c.address ++ leBytes 1 (roleCode c.role) ++ leBytes 1 (boolByte c.enabled) ++ leBytes 1 (chanStateCode c.state) ++
    leSigned 2 c.value ++ leBytes 2 c.misses ++ leSigned 2 c.rate ++ leBytes 1 (chanFlags c) ++ zeros 1 ++
    leBytes 8 (stampOrNone c.lastGood) ++ zeros 4

/-- The thermal channels section (R139). -/
def thermalSection (t : Thermal) : List Byte :=
  leBytes 2 t.shownStuck.toNat ++ leBytes 2 t.shownOverruns.toNat ++ t.shownChans.flatMap chanBytes

/-- One group record. -/
def groupBytes (g : Group) : List Byte :=
  leBytes 1 (groupStateCode g.state) ++ leBytes 1 (boolByte g.spreadFlag) ++ leSigned 2 g.value ++ leBytes 2 g.spread ++ zeros 2 ++
    leBytes 8 (stampOrNone g.holdStart)

/-- The nine groups in the order AX, AY, AZ, BX, BY, BZ, PART_A, PART_B, AIR. -/
def groupList (g : Groups) : List Group := g.scale.a.toList ++ g.scale.b.toList ++ [g.part.a, g.part.b, g.air]

/-- The effective temperatures section shows the published set (R139). -/
def temperaturesSection (p : Published) : List Byte := (groupList p.groups).flatMap groupBytes

/-- An orientation entry in its 16-byte form (section 11.5). -/
def orientEntryBytes (o : OrientEntry) : List Byte :=
  leBytes 1 o.tilt ++ leBytes 1 o.swivel ++ zeros 2 ++ leSigned 4 o.offset.x ++ leSigned 4 o.offset.y ++ leSigned 4 o.offset.z

/-- One descriptor of the probe-table mirror; its single index k byte is 0 (notes/assumptions/68.md). -/
def probeBytes (p : Probe) : List Byte :=
  leBytes 1 (boolByte p.present) ++ leBytes 1 (probeKindCode p.kind) ++ leBytes 1 (permissionCode p.permission) ++ leBytes 1 p.homePort ++
    leBytes 2 p.identity ++ leBytes 2 p.settle ++ leBytes 4 p.speedLimit ++ leBytes 4 p.overtravel ++
    leBytes 1 (qualificationCode p.qualification) ++ zeros 1 ++ leSigned 2 p.tq ++ leBytes 1 p.orients.length ++ zeros 1 ++
    leBytes 1 (locationCode p.location).1 ++ leBytes 1 (locationCode p.location).2 ++ zeros 8 ++
    p.orients.flatMap orientEntryBytes ++ zeros (16 * (8 - p.orients.length))

/-- The probe-table mirror section. -/
def mirrorSection (ps : List Probe) : List Byte := ps.flatMap probeBytes

/-- One map descriptor, absent as 16 zero bytes (notes/assumptions/65.md). -/
def descBytes : Option MapDesc → List Byte
  | some d => leBytes 1 1 ++ leBytes 1 d.m ++ leBytes 2 d.count ++ leBytes 2 d.base ++ leSigned 5 d.s0 ++ zeros 5
  | none => zeros 16

/-- An arm's part settings. -/
def partBytes (p : PartSetting) : List Byte :=
  leSigned 5 p.datum.x ++ leSigned 5 p.datum.y ++ leSigned 5 p.datum.z ++ leBytes 2 p.alpha ++ leBytes 1 (boolByte p.on) ++ zeros 6

/-- The nine descriptors of an arm in the order XX, XY, XZ, YX, …, ZZ. -/
def descList (d : Axes (Axes (Option MapDesc))) : List (Option MapDesc) := d.x.toList ++ d.y.toList ++ d.z.toList

/-- The map descriptors section. -/
def mapsSection (m : MapStore) : List Byte :=
  (descList m.descs.a ++ descList m.descs.b).flatMap descBytes ++ partBytes m.parts.a ++ partBytes m.parts.b

/-! ### Outcome area, page header and record -/

/-- The outcome area, offsets 32..63 of a plan slot (section 11.4). -/
def outcomeBytes (o : PlanOutcome) (f : FaultCode) (items clamped : Nat) (c : PlanCounts) : List Byte :=
  leBytes 1 (outcomeCode o) ++ zeros 1 ++ leBytes 2 (faultNat f) ++ leBytes 2 items ++ leBytes 2 clamped ++ leBytes 4 c.written ++
    leBytes 2 (indexOrNone c.firstPage) ++ leBytes 2 (indexOrNone c.lastPage) ++ leSigned 2 c.envMin ++ leSigned 2 c.envMax ++
    leBytes 2 c.dropped ++ zeros 10

/-- A record's content (R177). -/
inductive RecordKind where
  | touch
  | scan
  | miss
  | mark
deriving DecidableEq, Repr

/-- Record kind code (section 11.6). -/
def recordKindCode : RecordKind → Nat
  | .touch => 1
  | .scan => 2
  | .miss => 3
  | .mark => 4

/-- Flag bits of a record (section 11.6). -/
structure RecordFlags where
  tempHeld : Bool
  tempExpired : Bool
  spread : Bool
  partUnstable : Bool
  probeExpired : Bool
  mapEdge : Bool
  partUncorr : Bool
  saturated : Bool
  noDeflection : Bool
  offWindow : Bool
deriving DecidableEq, Repr

/-- No flag set. -/
def RecordFlags.clear : RecordFlags :=
  { tempHeld := false, tempExpired := false, spread := false, partUnstable := false, probeExpired := false, mapEdge := false,
    partUncorr := false, saturated := false, noDeflection := false, offWindow := false }

/-- The flags as the 16-bit field of a record. -/
def flagsCode (f : RecordFlags) : Nat :=
  boolByte f.tempHeld + 2 * boolByte f.tempExpired + 4 * boolByte f.spread + 8 * boolByte f.partUnstable + 16 * boolByte f.probeExpired +
    32 * boolByte f.mapEdge + 64 * boolByte f.partUncorr + 128 * boolByte f.saturated + 256 * boolByte f.noDeflection +
    512 * boolByte f.offWindow

/-- A record before its place and sequence are fixed (R174, R177). -/
structure RecordData where
  kind : RecordKind
  item : Nat
  iteration : Nat
  attempts : Nat
  probe : Nat
  tilt : Nat
  swivel : Nat
  flags : RecordFlags
  time : Stamp
  dtPart : Int
  dtScale : Vec3
  content : Vec3
  hostTag : Nat
deriving DecidableEq, Repr

/-- The 28 bytes of a record's content, offsets 36..63: coordinates, or a MARK's host tag (section 11.6). -/
def recordContent (r : RecordData) : List Byte :=
  match r.kind with
  | .mark => leBytes 4 r.hostTag ++ zeros 24
  | .miss => zeros 28
  | .touch => vec8 r.content ++ zeros 4
  | .scan => vec8 r.content ++ zeros 4

/-- The 64 bytes of a record (section 11.6). -/
def recordBytes (arm : Arm) (p : Plan) (seq : BitVec 32) (r : RecordData) : List Byte :=
  leBytes 1 (recordKindCode r.kind) ++ leBytes 1 (armCode arm) ++ leBytes 2 p.slot ++ leBytes 2 p.seq ++ leBytes 2 r.item ++
    leBytes 4 seq.toNat ++ leBytes 1 r.iteration ++ leBytes 1 r.attempts ++ leBytes 1 r.probe ++ leBytes 1 r.tilt ++ leBytes 1 r.swivel ++
    zeros 1 ++ leBytes 2 (flagsCode r.flags) ++ leBytes 6 r.time.toNat ++ leSigned 2 r.dtPart ++ leSigned 2 r.dtScale.x ++
    leSigned 2 r.dtScale.y ++ leSigned 2 r.dtScale.z ++ zeros 2 ++ recordContent r

/-- A page header from offset 4 on, as written at a reservation: count 0, link none, reserved bytes 0 (R172, R182). -/
def pageHeaderBytes (arm : Arm) (p : Plan) : List Byte :=
  leBytes 1 (armCode arm) ++ zeros 1 ++ leBytes 2 p.slot ++ leBytes 2 p.seq ++ leBytes 2 0 ++ leBytes 2 0xFFFF ++ zeros 2

end Sys2Proof.Machine
end

