-- ==== Sys2Proof/Machine/State.lean ====
section
/-! DEFINITION. The machine's state: every register, table, timer, counter and buffer the spec gives the LT-62, the exchange memory,
and the queue of commands waiting. All of it plain data. `State.reset` is the machine after power-on (R16) with the emergency-stop
input released and every scale signal present. -/

namespace Sys2Proof.Machine

/-- Why the machine stops with a fault. -/
inductive Fault where
  /-- Raised by `hostStore` and `hostLoad`, for a host access beyond the offsets 0x000000..0x3FFFFF that R1 gives. No command raises it.
  Safe: nothing is claimed of such an access. -/
  | outsideExchangeMemory
deriving DecidableEq, Repr

/-- Why a command has no meaning. -/
inductive Refusal where
  /-- Raised by an arm of `exec` whose command is not modelled yet; at present by none. Safe: nothing is claimed of such a command. -/
  | notModelled (mnemonic : String)
deriving DecidableEq, Repr

/-- The LT-62. -/
structure State where
  -- exchange port: registers and device state (chapter 1)
  device : DeviceState
  startResult : StartResult
  /-- A SOFT_RESET is in progress (R15). -/
  resetting : Bool
  cause : BitVec 10
  mask : BitVec 10
  areaCode : AreaCode
  areaOffset : BitVec 22
  ignoredCmds : BitVec 16
  /-- The emergency-stop input: asserted. -/
  estop : Bool
  /-- The timestamp counter (R119). -/
  now : Stamp
  mem : Mem
  -- result writer: the sections, in the order of `Section.all`, and the changes reported within the command being carried out (R17)
  sections : List SectionState
  reports : List Section
  -- plan scanner and rescan timer (R4)
  scanning : Bool
  scanPending : Bool
  rescan : Option Timer
  /-- The GIVEN view, page indices in rising order (R171). -/
  view : List Nat
  -- the installation constants of the last START (section 1.5)
  inst : Consts
  -- the blocks that are built once per arm, and what the shared blocks keep per arm
  arms : PerArm ArmRec
  -- zone arbiter (section 4.3)
  zones : List Zone
  zoneTie : Arm
  -- change sequencer (R102)
  rack : Rack
  -- probe table (R86)
  probes : List Probe
  -- thermal monitor (chapter 8)
  thermal : Thermal
  -- coordinate unit (chapter 9)
  maps : MapStore
  /-- The model's own: how many free choices have been drawn (notes/assumptions/6.md). -/
  draws : Nat
  /-- The model's own: what the part sent on its links during the last command, oldest first (notes/assumptions/5.md). -/
  out : List LinkOut
  /-- The commands that are waiting, first in, first out. -/
  pending : List Instr
deriving DecidableEq, Repr

/-- The content of a section, without its update counter, as the state stands (R18). -/
def State.sectionContent (s : State) : Section → List Byte
  | .device => deviceSection s.device s.startResult s.estop s.areaCode s.areaOffset s.now
  | .armA => armSection s.arms.a
  | .armB => armSection s.arms.b
  | .zones => zonesSection s.zones
  | .rack => rackSection s.rack
  | .thermal => thermalSection s.thermal
  | .temperatures => temperaturesSection s.thermal.published
  | .mirror => mirrorSection s.probes
  | .maps => mapsSection s.maps

/-! ### Reset values, block by block -/

/-- Constants before the first START: R154's zeros, the 16/16 split of R25, the 300 mA of section 5.8; the others 0 (notes/assumptions/9.md). -/
def Consts.powerOn : Consts :=
  { axes := PerArm.both (Axes.all3 { u := 0, following := 0, accel := 0, creep := 0, alpha := 0, home := 0, lower := 0, upper := 0 }),
    frame := PerArm.both (Axes.all3 { sign := 1, offset := 0 }), half := PerArm.both (Axes.all3 0), zoneWait := 0, lockRetries := 0,
    rackWait := 0, cyclePeriod := 0, missLimit := 0, holdLimit := 0, spreadLimit := 0, requalBand := 0, rescan := 0,
    regions := PerArm.both 16, supplyLimit := 300,
    arms := PerArm.both { maxFeed := 0, band := 0, idleTimeout := 0, wakeTime := 0, qXY := 0, qXZ := 0, qYZ := 0 } }

/-- Scale interface after power-on (R47, R119). -/
def Scale.powerOn (signal : Axes Bool) : Scale :=
  { count := Axes.all3 0, cref := Axes.all3 0, signal := signal, homed := false, latch := none }

/-- Motion generator after power-on: UNHOMED, or ESTOP with the input asserted (R50). -/
def Motion.powerOn (estop : Bool) : Motion :=
  { state := if estop then .estop else .unhomed, doing := .nothing, stop := none, resume := none, lastFault := .none, shown := Vec3.zero,
    drives := Axes.all3 false, commanded := none, standby := false, idleTimer := none, wakeTimer := none, holdPending := false, estopFaulted := false }

/-- Executor after power-on (R25); its item index and warning before the first plan: notes/assumptions/52.md. -/
def Executor.powerOn : Executor :=
  { plan := none, slot := 0, slotLen := 0, index := 0, offset := 0, stack := [], rep := none, pattern := Vec3.zero, itemsDone := 0,
    feedsClamped := 0, warnArmed := false, headerDue := false, policyDue := false, item := none, itemLen := 0 }

/-- Capture unit after power-on (R120, R122). -/
def Capture.powerOn : Capture :=
  { item := none, startPos := Vec3.zero, phase := .idle, attempts := 0, hit := none, pointTaken := false, ctx := Context.null,
    sampleTimer := none, sample := none, points := 0, dropped := 0, ignoredTriggers := 0 }

/-- Head after power-on (R88). -/
def Head.powerOn : Head :=
  { occ := .unidentified, orient := none, ctx := Context.null, supplyOn := false, supplyChecked := false, shadow := none }

/-- Result writer after power-on (R171). -/
def Writer.powerOn : Writer :=
  { chain := [], lastKept := none, grant := none, waiting := none, recSeq := 0, counts := PlanCounts.fresh }

/-- One arm after power-on. -/
def ArmRec.powerOn (estop : Bool) (signal : Axes Bool) : ArmRec :=
  { scale := Scale.powerOn signal, mot := Motion.powerOn estop, exec := Executor.powerOn, cap := Capture.powerOn, head := Head.powerOn,
    wr := Writer.powerOn, change := none, expected := 0 }

/-- A zone not in use (R76); its corners and speed limit: notes/assumptions/56.md. -/
def Zone.blank : Zone :=
  { inUse := false, box := { lo := Vec3.zero, hi := Vec3.zero }, speedLimit := 0, holder := none, waiter := none, waitStart := none }

/-- A port of the rack record after power-on (R102); its points: notes/assumptions/60.md. -/
def Port.blank : Port := { approach := Vec3.zero, dock := Vec3.zero, probe := none, occ := .unknown, lid := .closed }

/-- The rack record after power-on (R102). -/
def Rack.powerOn : Rack :=
  { holder := none, zone := none, ports := List.replicate 16 Port.blank, waiter := none, tie := .A, statusTimer := none, statusDue := [],
    missed := [] }

/-- Every group NONE (R150). -/
def Groups.blank : Groups :=
  { scale := PerArm.both (Axes.all3 Group.blank), part := PerArm.both Group.blank, air := Group.blank }

/-- Thermal monitor after power-on (R137, R138, R141, R150). -/
def Thermal.powerOn : Thermal :=
  { chans := List.replicate 32 Chan.blank, groups := Groups.blank,
    published := { groups := Groups.blank, partRate := PerArm.both false }, lineStuck := 0, overruns := 0, cycle := none,
    pendingCycle := false, due := none, wire := .high, shownChans := List.replicate 32 Chan.blank, shownStuck := 0, shownOverruns := 0 }

/-- Map store and part settings after power-on (R154, R155); the values of the nodes: notes/assumptions/64.md. -/
def MapStore.powerOn : MapStore :=
  { nodes := List.replicate 4096 0, descs := PerArm.both (Axes.all3 (Axes.all3 none)),
    parts := PerArm.both { datum := Vec3.zero, alpha := 0, on := false } }

/-- A section whose last rewrite has ended. -/
def SectionState.rest (counter : BitVec 32) : SectionState := { counter := counter, busy := false, marked := false }

/-- Every block and register in its power-on state, with an exchange memory of which nothing is listed. -/
def State.blank (estop : Bool) (signals : PerArm (Axes Bool)) : State :=
  { device := .stopped, startResult := .none, resetting := false, cause := 0, mask := 0, areaCode := .none, areaOffset := 0,
    ignoredCmds := 0, estop := estop, now := 0, mem := [], sections := List.replicate 9 (SectionState.rest 2), reports := [],
    scanning := false, scanPending := false, rescan := none, view := [], inst := Consts.powerOn,
    arms := { a := ArmRec.powerOn estop signals.a, b := ArmRec.powerOn estop signals.b },
    zones := List.replicate 8 Zone.blank, zoneTie := .A, rack := Rack.powerOn,
    probes := Probe.null :: List.replicate 31 Probe.blank, thermal := Thermal.powerOn, maps := MapStore.powerOn,
    draws := 0, out := [], pending := [] }

/-- The exchange memory with one section written, its update counter first (R17, section 11.7). -/
def State.putSection (s : State) (counter : BitVec 32) (sec : Section) (m : Mem) : Mem :=
  writeBytes m (sectionBase sec) (leBytes 4 counter.toNat ++ s.sectionContent sec)

/-- The exchange memory with every section written and ending at counter 2 (R16). -/
def State.powerOnStatus (s : State) (m : Mem) : Mem := Section.all.foldl (fun m sec => s.putSection 2 sec m) m

/-- The machine right after power-on (R16): the status block written, nothing else in the exchange memory, no command waiting
(notes/assumptions/44.md). -/
def State.reset : State :=
  let s := State.blank false (PerArm.both (Axes.all3 true))
  { s with mem := s.powerOnStatus [] }

end Sys2Proof.Machine
end

