-- ==== Sys2Proof/Machine/Flags.lean ====
section
/-! DEFINITION. The flag computations: the ten causes and the interrupt line (R9), a channel's alarm flags (R144, R145), and a
record's temperature and probe flags (R163). -/

namespace Sys2Proof.Machine

/-- The ten causes (R9). -/
inductive Cause where
  | planDone
  | pageClosed
  | armFault
  | armWait
  | thermalAlarm
  | probeExpired
  | stackWarn
  | estop
  | startDone
  | areaFault
deriving DecidableEq, Repr

/-- Bit of CAUSE and MASK (section 11.2). -/
def causeBit : Cause → Nat
  | .planDone => 0
  | .pageClosed => 1
  | .armFault => 2
  | .armWait => 3
  | .thermalAlarm => 4
  | .probeExpired => 5
  | .stackWarn => 6
  | .estop => 7
  | .startDone => 8
  | .areaFault => 9

/-- The cause's bit as a CAUSE word. -/
def causeWord (c : Cause) : BitVec 10 := 1#10 <<< causeBit c

/-- A cause is set on its event and stays set (R9). -/
def setCause (c : Cause) (s : State) : State := { s with cause := s.cause ||| causeWord c }

/-- The interrupt line: asserted while at least one cause is both set and unmasked (R9). -/
def interruptLine (s : State) : Bool := (s.cause &&& s.mask) ≠ 0

/-- LOW after a good read: set below the limit, cleared at or above the limit + 100 mK, otherwise as it was (R144). -/
def lowFlag (c : Chan) (v : Int) : Bool := if v < c.alarmLow then true else if c.alarmLow + 100 ≤ v then false else c.low

/-- HIGH after a good read: set above the limit, cleared at or below the limit − 100 mK, otherwise as it was (R144). -/
def highFlag (c : Chan) (v : Int) : Bool := if c.alarmHigh < v then true else if v ≤ c.alarmHigh - 100 then false else c.high

/-- R145's quotient for a time between two good reads in µs; a time of 0 leaves it open (notes/assumptions/7.md). -/
def rawRate (new old : Int) (dt : Nat) : Int :=
  if dt = 0 then Config.rateOfNoTime new old else roundDiv ((new - old) * 60000000) dt

/-- The rate of change in mK/min, held at ±32,767 (R145). -/
def rateOf (new old : Int) (dt : Nat) : Int := holdWithin (-32767) 32767 (rawRate new old dt)

/-- RATE: the absolute rate exceeds the limit (R145). -/
def rateFlagOf (c : Chan) (rate : Int) : Bool := c.rateLimit < rate.natAbs

/-- The alarm flags that a read changed from clear to set (R146). -/
def newlySet (old new : Chan) : Bool :=
  (new.low && !old.low) || (new.high && !old.high) || (new.rateFlag && !old.rateFlag)

end Sys2Proof.Machine
end

