-- ==== Sys2Proof/Machine/Ops.lean ====
section
/-! DEFINITION. The operations that every block shares: access to one arm's records, timers, area errors, conditional tag writes,
the status-block rewrites, the links, positions, and the host's own access to the exchange memory. -/

namespace Sys2Proof.Machine

/-! ### One arm's records -/

/-- Everything kept for one arm. -/
def State.arm (s : State) (a : Arm) : ArmRec := s.arms.get a

/-- The state with one arm's records replaced. -/
def State.setArm (s : State) (a : Arm) (r : ArmRec) : State := { s with arms := s.arms.set a r }

/-- The state with one arm's motion generator changed. -/
def State.modMot (s : State) (a : Arm) (f : Motion → Motion) : State := s.setArm a { s.arm a with mot := f (s.arm a).mot }

/-- The state with one arm's executor changed. -/
def State.modExec (s : State) (a : Arm) (f : Executor → Executor) : State := s.setArm a { s.arm a with exec := f (s.arm a).exec }

/-- The state with one arm's capture unit changed. -/
def State.modCap (s : State) (a : Arm) (f : Capture → Capture) : State := s.setArm a { s.arm a with cap := f (s.arm a).cap }

/-- The state with one arm's head changed. -/
def State.modHead (s : State) (a : Arm) (f : Head → Head) : State := s.setArm a { s.arm a with head := f (s.arm a).head }

/-- The state with the writer's part for one arm changed. -/
def State.modWr (s : State) (a : Arm) (f : Writer → Writer) : State := s.setArm a { s.arm a with wr := f (s.arm a).wr }

/-- The state with the scale interface's part for one arm changed. -/
def State.modScale (s : State) (a : Arm) (f : Scale → Scale) : State := s.setArm a { s.arm a with scale := f (s.arm a).scale }

/-- The state with one arm's change record replaced. -/
def State.setChange (s : State) (a : Arm) (c : Option Change) : State := s.setArm a { s.arm a with change := c }

/-- The arm has a taken plan. -/
def State.hasPlan (s : State) (a : Arm) : Bool := (s.arm a).exec.plan.isSome

/-- What the arm is doing. -/
def State.doing (s : State) (a : Arm) : Doing := (s.arm a).mot.doing

/-- The state with what the arm is doing replaced. -/
def State.setDoing (s : State) (a : Arm) (d : Doing) : State := s.modMot a (fun m => { m with doing := d })

/-- The state with the arm state replaced. -/
def State.setArmState (s : State) (a : Arm) (st : ArmState) : State := s.modMot a (fun m => { m with state := st })

/-- The state with the arm's resume point replaced. -/
def State.setResume (s : State) (a : Arm) (r : Option ResumePoint) : State := s.modMot a (fun m => { m with resume := r })

/-- Both arms in index order. -/
def bothArms : List Arm := [.A, .B]

/-! ### Lists by index -/

/-- The list with every element replaced by a function of its index and itself. -/
def mapIndexed {α β : Type} (f : Nat → α → β) : Nat → List α → List β
  | _, [] => []
  | n, x :: t => f n x :: mapIndexed f (n + 1) t

/-- The list with the element at an index changed; an index beyond its end changes nothing. -/
def modifyAt {α : Type} (f : α → α) : Nat → List α → List α
  | _, [] => []
  | 0, x :: t => f x :: t
  | n + 1, x :: t => x :: modifyAt f n t

/-- The indices from `n` on of the elements with a property. -/
def indicesOf {α : Type} (p : α → Bool) : Nat → List α → List Nat
  | _, [] => []
  | n, x :: t => if p x then n :: indicesOf p (n + 1) t else indicesOf p (n + 1) t

/-! ### Timers (notes/assumptions/4.md) -/

/-- A timer of a length in µs, started now. -/
def State.timer (s : State) (len : Nat) : Timer := { start := s.now, len := len }

/-- Time passes while no command waits: the timestamp counter counts one µs and wraps (R119, notes/assumptions/16.md). -/
def State.tick (s : State) : State := { s with now := s.now + 1 }

/-- Time since a moment, on the timestamp counter (R119). -/
def State.since (s : State) (t : Stamp) : Nat := (s.now - t).toNat

/-- The timer has run its length. -/
def State.due (s : State) (t : Timer) : Bool := decide (t.len ≤ s.since t.start)

/-- No more than the timer's length has passed since its start: a report that must come within it still can. -/
def State.inTime (s : State) (t : Timer) : Bool := decide (s.since t.start ≤ t.len)

/-- The timer is running and has run its length. -/
def State.dueOpt (s : State) : Option Timer → Bool
  | some t => s.due t
  | none => false

/-- A periodic timer set to its next expiry: `period` µs after the one that is due (R4, R131, R138). -/
def Timer.again (t : Timer) (period : Nat) : Timer := { start := t.start + BitVec.ofNat 48 t.len, len := period }

/-- Milliseconds and seconds in µs. -/
def ms (n : Nat) : Nat := n * 1000
def sec (n : Nat) : Nat := n * 1000000

/-! ### Links -/

/-- The state after the part has sent a command on one of its links. -/
def State.send (s : State) (o : LinkOut) : State := { s with out := s.out ++ [o] }

/-! ### Reported changes of content (R18) -/

/-- A block asks for a rewrite whether or not the content differs at the end of the command (R18, R92, R103, R139, R166, R170). -/
def report (x : Section) (s : State) : State := { s with reports := x :: s.reports }

/-- The section that shows an arm. -/
def armShown : Arm → Section
  | .A => .armA
  | .B => .armB

/-! ### Area errors and tags -/

/-- An exchange-area error: recorded, with AREA_FAULT set, when code or offset differs from what AREA_ERROR holds (R10); the device
section is then rewritten, also where a later error of the same command brings the former back (R18). -/
def reportArea (code : AreaCode) (offset : Nat) (s : State) : State :=
  if s.areaCode = code ∧ s.areaOffset = BitVec.ofNat 22 offset then s
  else report .device (setCause .areaFault { s with areaCode := code, areaOffset := BitVec.ofNat 22 offset })

/-- The tag word at a slot's or page's head is the expected one. -/
def tagIs (s : State) (base tag : Nat) : Bool := readTag s.mem base == tag

/-- A conditional tag write: made if the word holds the expected value, else TAG_CONFLICT is recorded (R3). -/
def condTag (base expect new : Nat) (s : State) : State :=
  if tagIs s base expect then { s with mem := writeTag s.mem base new } else reportArea .tagConflict base s

/-! ### The status block (R17, R18) -/

/-- Place of a section among the nine. -/
def sectionIndex : Section → Nat
  | .device => 0
  | .armA => 1
  | .armB => 2
  | .zones => 3
  | .rack => 4
  | .thermal => 5
  | .temperatures => 6
  | .mirror => 7
  | .maps => 8

/-- A section's counter and rewrite state. -/
def State.sectionState (s : State) (x : Section) : SectionState := s.sections.getD (sectionIndex x) (SectionState.rest 0)

/-- The state with a section's counter and rewrite state replaced. -/
def State.setSection (s : State) (x : Section) (v : SectionState) : State := { s with sections := s.sections.set (sectionIndex x) v }

/-- A rewrite begins: the counter becomes odd and the content is written (R17 steps 1 and 2). -/
def beginRewrite (x : Section) (s : State) : State :=
  let c := (s.sectionState x).counter + 1
  { s.setSection x { counter := c, busy := true, marked := false } with mem := s.putSection c x s.mem }

/-- A reported change begins a rewrite, or marks one further rewrite while one is in progress (R17). -/
def noteChange (s : State) (x : Section) : State :=
  if (s.sectionState x).busy then s.setSection x { s.sectionState x with marked := true } else beginRewrite x s

/-- The zone table is replaced. Each grant, release, entry to a wait, change of waiter and end of a wait goes through here, so that it
rewrites the zones section even where a later operation of the same command undoes it (R76). -/
def setZones (zs : List Zone) (s : State) : State :=
  { s with zones := zs, reports := if zs = s.zones then s.reports else .zones :: s.reports }

/-- The rack record is replaced; a change of what the rack section shows rewrites it, also where a later operation of the same command
undoes it (R102, R106). -/
def setRack (r : Rack) (s : State) : State :=
  { s with rack := r, reports := if rackSection r = rackSection s.rack then s.reports else .rack :: s.reports }

/-- The content a section shows differs between two states (R18). The two thermal sections are rewritten on report only. -/
def shownChanged (s t : State) : Section → Bool
  | .device =>
    decide (s.device ≠ t.device) || (decide (s.startResult ≠ t.startResult) || (decide (s.estop ≠ t.estop) ||
      (decide (s.areaCode ≠ t.areaCode) || decide (s.areaOffset ≠ t.areaOffset))))
  | .armA => decide (armSection s.arms.a ≠ armSection t.arms.a)
  | .armB => decide (armSection s.arms.b ≠ armSection t.arms.b)
  | .zones => decide (s.zones ≠ t.zones)
  | .rack => decide (rackSection s.rack ≠ rackSection t.rack)
  | .thermal => false
  | .temperatures => false
  | .mirror => decide (s.probes ≠ t.probes)
  | .maps => decide (s.maps.descs ≠ t.maps.descs) || decide (s.maps.parts ≠ t.maps.parts)

/-- The sections to rewrite after a command that led from `s` to `t` (notes/assumptions/43.md). -/
def sectionsDue (s t : State) : List Section := Section.all.filter (fun x => t.reports.contains x || shownChanged s t x)

/-- The result writer's part of every command: it begins or marks the rewrite of each section that is due (R17, R18). -/
def publish (s t : State) : State := (sectionsDue s t).foldl noteChange { t with reports := [] }

/-- The state in which a command's own effect begins: nothing sent on the links yet. -/
def State.opened (s : State) : State := { s with out := [] }

/-- The end of a command that involves no arm's further work. -/
def finish (s t : State) : Host.Outcome State Fault Refusal := .next (publish s t)

/-! ### Positions (sections 3.1 and 4.1) -/

/-- Scale position of one axis: (count − reference count) × count unit + home offset, exactly (R157). -/
def scalePosition (k : AxisConst) (count cref : BitVec 32) : Int := (count.toInt - cref.toInt) * k.u + k.home

/-- Scale positions of three counts (R157). -/
def scalePositions (k : Axes AxisConst) (counts cref : Counts) : Vec3 :=
  Axes.of (fun i => scalePosition (k.get i) (counts.get i) (cref.get i))

/-- The arm's position: the triple of its scale positions (section 3.1). -/
def State.position (s : State) (a : Arm) : Vec3 :=
  scalePositions (s.inst.axes.get a) (s.arm a).scale.count (s.arm a).scale.cref

/-- The counters follow the scale, but for an axis whose signal is LOST, which holds its value (R47, R48) (notes/assumptions/18.md). -/
def followCounts (sc : Scale) (counts : Counts) : Scale :=
  { sc with count := Axes.of (fun i => if sc.signal.get i then counts.get i else sc.count.get i) }

/-- The state after the scale interface has counted to these values. -/
def State.counted (s : State) (a : Arm) (counts : Counts) : State := s.modScale a (fun sc => followCounts sc counts)

/-- The arm's shown position is replaced by its position: at the completion and at the stop of a segment in flight (R18, R56), and not when an
event finds the arm stationary (notes/assumptions/75.md). -/
def State.showPosition (s : State) (a : Arm) : State :=
  let p := s.position a
  s.modMot a (fun m => { m with shown := p })

/-! ### Registers and the host's side of the exchange memory -/

/-- What a host read of a register gives (section 1.4, section 11.2); CONTROL reads as 0 (R7). DESIGN CHOICE: an offset of the window that
holds no register reads as 0 too (notes/assumptions/81.md). -/
def readRegister (s : State) (offset : Nat) : Nat :=
  match offset with
  | 0x00 => Config.partCode * 65536 + Config.revision
  | 0x04 => 0
  | 0x08 => s.ignoredCmds.toNat
  | 0x0C => deviceCode s.device + 256 * startResultCode s.startResult
  | 0x10 => s.cause.toNat
  | 0x14 => s.mask.toNat
  | 0x18 => s.areaOffset.toNat + 0x1000000 * areaNat s.areaCode
  | _ => 0

/-- One host write to the exchange memory, of a byte or of consecutive bytes taken as one access: a whole tag word is replaced at once,
and no command falls between its bytes (R1). Not a command of the table (notes/assumptions/3.md). -/
def hostStore (s : State) (offset : Nat) (bytes : List Byte) : Host.Outcome State Fault Refusal :=
  if offset + bytes.length ≤ memSize then .next { s with mem := writeBytes s.mem offset bytes } else .fault .outsideExchangeMemory

/-- One host read of `count` consecutive bytes of the exchange memory, taken as one access (R1). -/
def hostLoad (s : State) (offset count : Nat) : Host.Outcome (List Byte) Fault Refusal :=
  if offset + count ≤ memSize then .next (readBytes s.mem offset count) else .fault .outsideExchangeMemory

end Sys2Proof.Machine
end

