-- ==== Sys2Proof/Machine/ProbeTable.lean ====
section
/-! DEFINITION. The probe table (chapter 5): contexts, mounting, the refresh and the checks at a segment start, entry updates,
locations, head supply, shadow window, and the expiry of qualifications. -/

namespace Sys2Proof.Machine

/-- Entry `p` of the probe table. -/
def State.probe (s : State) (p : Nat) : Probe := s.probes.getD p Probe.blank

/-- The state with one entry changed. -/
def State.modProbe (s : State) (p : Nat) (f : Probe → Probe) : State := { s with probes := modifyAt f p s.probes }

/-! ### Supply and shadow (R99, R100) -/

/-- The head supply is switched on; its current is first compared 20 ms later (R100). -/
def supplyOn (a : Arm) (s : State) : State :=
  (s.modHead a (fun h => { h with supplyOn := true, supplyChecked := false })).send (.supply a true)

/-- The head supply is switched off (R100). -/
def supplyOff (a : Arm) (s : State) : State :=
  if (s.arm a).head.supplyOn then
    (s.modHead a (fun h => { h with supplyOn := false, supplyChecked := false })).send (.supply a false)
  else s

/-- The current exceeds the limit (R100). -/
def overLimit (s : State) (current : Nat) : Bool := decide (s.inst.supplyLimit < current)

/-- The shadow window opens for a settle time in ms; a settle time of 0 closes it (R99). -/
def openShadow (a : Arm) (settle : Nat) (s : State) : State :=
  let t := if settle = 0 then none else some (s.timer (ms settle))
  s.modHead a (fun h => { h with shadow := t })

/-! ### Contexts and mounting (R88 to R90) -/

/-- The context becomes a copy of entry 0, NONE (R88). -/
def clearContext (a : Arm) (s : State) : State := s.modHead a (fun h => { h with ctx := Context.null })

/-- The context state of a mounted probe becomes UNPOWERED; a context of NONE stays NONE (R88, R101). -/
def unpower (a : Arm) (s : State) : State :=
  s.modHead a (fun h =>
    match h.occ with
    | .probe _ => { h with ctx := { h.ctx with state := .unpowered } }
    | _ => h)

/-- Mount checks 2 and 3 of R89, for p ≥ 1: present, then permitted. -/
def mountCheck (s : State) (a : Arm) (p : Nat) : Option FaultCode :=
  if !(s.probe p).present then some .probeAbsent
  else if !(s.probe p).permission.allows a then some .probeArm
  else none

/-- A failed mount: supply off, and the context NONE or UNPOWERED by the occupancy (R89). -/
def mountFails (a : Arm) (s : State) : State :=
  let s := supplyOff a s
  match (s.arm a).head.occ with
  | .probe _ => unpower a s
  | _ => clearContext a s

/-- A mount of p ≥ 1 that passes: a fresh copy, READY, nothing selected, and the shadow window opens (R89). -/
def mount (a : Arm) (p : Nat) (s : State) : State :=
  let c := s.probe p
  openShadow a c.settle (s.modHead a (fun h => { h with ctx := { index := p, copy := c, state := .ready, selected := none } }))

/-- A mount of index 0: the head is EMPTY with a copy of entry 0; no shadow opens (R89). -/
def mountNull (a : Arm) (s : State) : State := s.modHead a (fun h => { h with occ := .empty, ctx := Context.null })

/-- The fault a refresh finds for the mounted probe (R90). -/
def refreshFault (s : State) (a : Arm) : Option FaultCode :=
  match (s.arm a).head.occ with
  | .probe p => mountCheck s a p
  | _ => none

/-- The refresh of R90: a copy of entry 0 for an empty or unidentified head, a new copy of entry p keeping the context state, or
nothing where the entry is absent or forbids the arm. -/
def refresh (a : Arm) (s : State) : State :=
  match (s.arm a).head.occ with
  | .probe p =>
    if (mountCheck s a p).isNone then
      let c := s.probe p
      s.modHead a (fun h => { h with ctx := { h.ctx with index := p, copy := c } })
    else s
  | _ => clearContext a s

/-- The orientation entry of the copy that holds the head's pair (R91). -/
def orientOf (h : Head) : Option OrientEntry :=
  match h.orient with
  | some (t, w) => h.ctx.copy.orients.find? (fun o => o.tilt == t && o.swivel == w)
  | none => none

/-- The probe's kind does not fit the item: a SCAN with a TOUCH probe, or a TOUCH with a SCAN probe (R91). -/
def kindMismatch (k : ProbeKind) (isScan : Bool) : Bool :=
  match k, isScan with
  | .touch, true => true
  | .scan, false => true
  | _, _ => false

/-- The qualification is EXPIRED or UNQUALIFIED (R91, R163). -/
def untrusted (q : Qualification) : Bool := decide (q ≠ .qualified)

/-- Policy code 2 is HOLD (section 11.4). -/
def policyHold (code : Nat) : Bool := code == 2

/-- R91: the checks at the start of a probing segment, in order, the first that fails deciding. -/
def probingFault (h : Head) (isScan holdExpired : Bool) : Option FaultCode :=
  if h.ctx.state = .none then some .probeNone
  else if kindMismatch h.ctx.copy.kind isScan then some .probeKind
  else if (orientOf h).isNone then some .orientUnqualified
  else if h.ctx.state = .unpowered then some .probeNotReady
  else if untrusted h.ctx.copy.qualification && holdExpired then some .probeExpired
  else none

/-- The entry that holds the head's pair becomes the selected one (R91). -/
def selectOrient (a : Arm) (s : State) : State :=
  s.modHead a (fun h => { h with ctx := { h.ctx with selected := orientOf h } })

/-! ### Updates (R92, R93) -/

/-- R93: the entry's place in the list. -/
def placeOrient (k : Nat) (o : OrientEntry) (l : List OrientEntry) : List OrientEntry :=
  if l.any (fun e => e.tilt == o.tilt && e.swivel == o.swivel) then
    l.map (fun e => if e.tilt == o.tilt && e.swivel == o.swivel then { e with offset := o.offset } else e)
  else if k < l.length then modifyAt (fun _ => o) k l
  else l ++ [o]

/-- R92: the selected fields written into an entry in one operation, the others kept. -/
def applyUpdate (u : ProbeUpdate) (p : Probe) : Probe :=
  { present := u.present.getD p.present
    kind := u.kind.getD p.kind
    identity := u.identity.getD p.identity
    permission := u.permission.getD p.permission
    homePort := u.homePort.getD p.homePort
    location := p.location
    speedLimit := u.speedLimit.getD p.speedLimit
    settle := u.settle.getD p.settle
    overtravel := u.overtravel.getD p.overtravel
    qualification := match u.qualification with
      | none => p.qualification
      | some (some _) => .qualified
      | some none => .unqualified
    tq := match u.qualification with
      | some (some t) => t
      | _ => p.tq
    orients := match u.orients, u.single with
      | some l, _ => l
      | none, some (k, o) => placeOrient k o p.orients
      | none, none => p.orients }

/-! ### Locations (R87, R94) -/

/-- The rack record's port `n`. -/
def Rack.port (r : Rack) (n : Nat) : Port := r.ports.getD n Port.blank

/-- The state with one port of the rack record changed. -/
def State.modPort (s : State) (n : Nat) (f : Port → Port) : State := { s with rack := { s.rack with ports := modifyAt f n s.rack.ports } }

/-- R87: a probe's location and the port records change in one operation; a change of location rewrites the rack section and the mirror. -/
def moveProbe (p : Nat) (l : Location) (s : State) : State :=
  let emptied := s.rack.ports.map (fun q => if q.probe = some p then { q with probe := none } else q)
  let ports := match l with
    | .port n => modifyAt (fun q => { q with probe := some p }) n emptied
    | _ => emptied
  { s.modProbe p (fun e => { e with location := l }) with
    rack := { s.rack with ports := ports }
    reports := if (s.probe p).location = l then s.reports else .rack :: .mirror :: s.reports }

/-- R87, R88: the head's occupancy is replaced. -/
def setOccupancy (a : Arm) (o : Occupancy) (s : State) : State := s.modHead a (fun h => { h with occ := o })

/-- A location a SET_LOCATION of p ≥ 1 may declare, by the table of R94. -/
def locationAllowed (s : State) (a : Arm) (p : Nat) (l : Location) : Bool :=
  let otherHasRack := decide (s.rack.holder = some a.other)
  match l with
  | .unknown =>
    (match (s.probe p).location with
      | .unknown => true
      | .port _ => !otherHasRack
      | .arm b => decide (b = a))
  | .port n => decide ((s.probe p).location = .unknown) && ((s.rack.port n).probe.isNone && !otherHasRack)
  | .arm b =>
    decide (b = a) && (decide ((s.probe p).location = .unknown) &&
      (decide ((s.arm a).head.occ = .empty) || decide ((s.arm a).head.occ = .unidentified)))

/-- A location a SET_LOCATION of index 0 may declare (R94). -/
def nullLocationAllowed (s : State) (a : Arm) (l : Location) : Bool :=
  match l with
  | .arm b => decide (b = a) && (decide ((s.arm a).head.occ = .empty) || decide ((s.arm a).head.occ = .unidentified))
  | _ => false

/-- A head recorded with a probe that turns out to be elsewhere becomes UNIDENTIFIED, its supply off, its context NONE (R87, R88, R94). -/
def forgetProbe (a : Arm) (p : Nat) (s : State) : State :=
  if (s.arm a).head.occ = .probe p then clearContext a (supplyOff a (setOccupancy a .unidentified s)) else s

/-- R94: a declaration of UNKNOWN; a head that held the probe becomes UNIDENTIFIED, unpowered, with a context of NONE. -/
def declareUnknown (a : Arm) (p : Nat) (s : State) : State := forgetProbe a p (moveProbe p .unknown s)

/-! ### Qualification expiry (R96) -/

/-- The entry is compared and found outside the band (R96). -/
def expires (air : Int) (band : Nat) (p : Probe) : Bool :=
  p.present && (decide (p.qualification = .qualified) && decide (band < (air - p.tq).natAbs))

/-- R96: the comparison at a thermal cycle end, made only while the AIR group is LIVE. -/
def expireQualifications (s : State) : State :=
  let g := s.thermal.published.groups.air
  if g.state = .live then
    if s.probes.any (expires g.value s.inst.requalBand) then
      setCause .probeExpired
        { s with probes := s.probes.map (fun p => if expires g.value s.inst.requalBand p then { p with qualification := .expired } else p) }
    else s
  else s

end Sys2Proof.Machine
end

