-- ==== Sys2Proof/Machine/ThermalMonitor.lean ====
section
/-! DEFINITION. The thermal monitor (chapter 8): the judging of a reply, channel records, groups, the cycle end, the reads of a cycle,
and the retake at START. -/

namespace Sys2Proof.Machine

/-! ### One read (R136, R143 to R146) -/

/-- How a read ends (R136). -/
inductive ReadOutcome where
  | good (value : Int)
  | miss
  | element
deriving DecidableEq, Repr

/-- The 8-bit sum of the value's bytes, the status and the check is 0 (R136). -/
def sumCheckOk (value : BitVec 16) (status check : BitVec 8) : Bool :=
  decide ((value.toNat % 256 + value.toNat / 256 + status.toNat + check.toNat) % 256 = 0)

/-- The value is within −20,000..+30,000 mK (R136). -/
def valueOk (v : Int) : Bool := decide (-20000 ≤ v) && decide (v ≤ 30000)

/-- R136: the judging of a complete reply, the first case that applies. -/
def judgeReply (value : BitVec 16) (status check : BitVec 8) : ReadOutcome :=
  if !sumCheckOk value status check then .miss
  else if status = 1#8 ∨ status = 2#8 then .element
  else if status = 0#8 ∧ valueOk value.toInt = true then .good value.toInt
  else .miss

/-- A good read: rate and flags against the record before the read, then the value and its time (R143 to R145). -/
def goodRead (now : Stamp) (v : Int) (c : Chan) : Chan :=
  let rated := match c.lastGood with
    | some t =>
      let r := rateOf v c.value (now - t).toNat
      { c with rate := r, rateFlag := rateFlagOf c r }
    | none => { c with rateFlag := false }
  { rated with low := lowFlag c v, high := highFlag c v, value := v, lastGood := some now, misses := 0, state := .fresh }

/-- The entry to FAILED from FRESH or AGED clears the flags (R143). -/
def toFailed (c : Chan) : Chan :=
  match c.state with
  | .fresh => { c with state := .failed, low := false, high := false, rateFlag := false }
  | .aged => { c with state := .failed, low := false, high := false, rateFlag := false }
  | _ => { c with state := .failed }

/-- A miss (R143). -/
def missRead (limit : Nat) (c : Chan) : Chan :=
  let n := satAdd16 c.misses 1
  if limit ≤ n ∨ c.state = .failed then { toFailed c with misses := n } else { c with misses := n, state := .aged }

/-- R143: the record takes the outcome of its read. -/
def applyRead (now : Stamp) (limit : Nat) (o : ReadOutcome) (c : Chan) : Chan :=
  match o with
  | .good v => goodRead now v c
  | .miss => missRead limit c
  | .element => toFailed c

/-- The state with the thermal monitor changed. -/
def State.modThermal (s : State) (f : Thermal → Thermal) : State := { s with thermal := f s.thermal }

/-- Channel record `i`. -/
def State.chan (s : State) (i : Nat) : Chan := s.thermal.chans.getD i Chan.blank

/-- A read of channel `i` ends: the record takes the outcome, and a flag that becomes set sets THERMAL_ALARM (R143, R146). -/
def takeRead (i : Nat) (o : ReadOutcome) (s : State) : State :=
  let c := s.chan i
  let c' := applyRead s.now s.inst.missLimit o c
  let s' := s.modThermal (fun t => { t with chans := modifyAt (fun _ => c') i t.chans })
  if newlySet c c' then setCause .thermalAlarm s' else s'

/-! ### Groups (R147 to R151) -/

/-- The enabled channels of a role (R147). -/
def roleChans (chans : List Chan) (r : Role) : List Chan := chans.filter (fun c => c.enabled && decide (c.role = r))

/-- A channel that takes part in its group: FRESH or AGED (R148), with a reading (R141). -/
def validChan (c : Chan) : Bool := (decide (c.state = .fresh) || decide (c.state = .aged)) && c.lastGood.isSome

/-- The mean of the values, rounded (R148). -/
def meanValue (l : List Chan) : Int := roundDiv ((l.map (fun c => c.value)).foldl (· + ·) 0) l.length

/-- The largest less the smallest value (R148). -/
def spreadOf (l : List Chan) : Nat :=
  match l with
  | [] => 0
  | c :: t => (t.foldl (fun m d => max m d.value) c.value - t.foldl (fun m d => min m d.value) c.value).toNat

/-- R148, R149: a group at a cycle end (notes/assumptions/35.md). -/
def groupAfter (s : State) (r : Role) (g : Group) : Group :=
  let all := roleChans s.thermal.chans r
  let valid := all.filter validChan
  if all.isEmpty then Group.blank
  else if !valid.isEmpty then
    { state := .live, value := meanValue valid, spread := spreadOf valid, spreadFlag := decide (s.inst.spreadLimit < spreadOf valid),
      holdStart := none }
  else
    match g.state with
    | .live => { g with state := .held, holdStart := some s.now }
    | .held =>
      (match g.holdStart with
        | some t => if sec s.inst.holdLimit < s.since t then { g with state := .expired } else g
        | none => g)
    | .expired => g
    | .none => g

/-- A function of role and group applied to the nine groups. -/
def mapGroups (f : Role → Group → Group) (g : Groups) : Groups :=
  { scale :=
      { a := Axes.of (fun i => f (.scale .A i) (g.scale.a.get i)), b := Axes.of (fun i => f (.scale .B i) (g.scale.b.get i)) }
    part := { a := f (.part .A) g.part.a, b := f (.part .B) g.part.b }
    air := f .air g.air }

/-- An arm's part-rate indication: an enabled PART channel of the arm has RATE set (R151). -/
def partRateOf (chans : List Chan) (a : Arm) : Bool := (roleChans chans (.part a)).any (fun c => c.rateFlag)

/-- The published set is replaced in one operation (R139 step 2, R151). -/
def publishGroups (s : State) : State :=
  s.modThermal (fun t =>
    { t with published := { groups := t.groups, partRate := { a := partRateOf t.chans .A, b := partRateOf t.chans .B } } })

/-- What the thermal channels section shows becomes the records as they stand, and the two thermal sections are rewritten. -/
def showThermal (s : State) : State :=
  report .temperatures (report .thermal (s.modThermal (fun t =>
    { t with shownChans := t.chans, shownStuck := t.lineStuck, shownOverruns := t.overruns })))

/-- R139: the cycle end. -/
def cycleEnd (s : State) : State :=
  let g := mapGroups (groupAfter s) s.thermal.groups
  showThermal (expireQualifications (publishGroups (s.modThermal (fun t => { t with groups := g }))))

/-! ### The reads of a cycle (R137, R138) -/

/-- The first channel from `i` on whose state is not DISABLED. -/
def nextChan (i : Nat) (chans : List Chan) : Option Nat :=
  (indicesOf (fun c => decide (c.state ≠ .disabled)) 0 chans).find? (fun k => decide (i ≤ k))

/-- The request of a read is sent, and the 5 ms of R136 begin: the request itself takes no time (notes/assumptions/73.md). -/
def sendRead (i : Nat) (abandoned : Bool) (s : State) : State :=
  (s.modThermal (fun t => { t with cycle := some { chan := i, phase := .reply (s.timer (ms 5)), abandoned := abandoned } })).send
    (.readRequest (s.chan i).address)

/-- A read begins: the request at once on a released wire, else the monitor waits (R137). -/
def beginRead (i : Nat) (wire : Wire) (s : State) : State :=
  let s := s.modThermal (fun t => { t with wire := wire })
  match wire with
  | .high => sendRead i false s
  | .low _ => s.modThermal (fun t => { t with cycle := some { chan := i, phase := .waitWire, abandoned := false } })

/-- A cycle begins; one with no enabled channel ends as soon as it begins (R138). -/
def beginCycle (wire : Wire) (s : State) : State :=
  match nextChan 0 s.thermal.chans with
  | some i => beginRead i wire s
  | none => cycleEnd (s.modThermal (fun t => { t with cycle := none }))

/-- No cycle is in progress; a pending one begins (R138). -/
def cycleDone (wire : Wire) (s : State) : State :=
  let s' := s.modThermal (fun t => { t with cycle := none, pendingCycle := false })
  if s.thermal.pendingCycle then beginCycle wire s' else s'

/-- The read of channel `i` has ended: the next read begins, or the cycle ends; an abandoned cycle goes no further (R138, R140). -/
def afterRead (i : Nat) (abandoned : Bool) (wire : Wire) (s : State) : State :=
  if abandoned then cycleDone wire s
  else
    match nextChan (i + 1) s.thermal.chans with
    | some k => beginRead k wire s
    | none => cycleDone wire (cycleEnd s)

/-- R138: a cycle falls due; while one is in progress the overrun is counted and one cycle is marked pending. -/
def cycleFallsDue (wire : Wire) (s : State) : State :=
  if s.thermal.cycle.isSome then s.modThermal (fun t => { t with overruns := t.overruns + 1, pendingCycle := true })
  else beginCycle wire s

/-- R140: at a STOP the read in progress goes on and the cycle is abandoned. -/
def stopThermal (s : State) : State :=
  s.modThermal (fun t => { t with cycle := t.cycle.map (fun c => { c with abandoned := true }), pendingCycle := false, due := none })

/-- R140: at a SOFT_RESET the read in progress is abandoned. -/
def abandonThermal (s : State) : State := s.modThermal (fun t => { t with cycle := none, pendingCycle := false, due := none })

/-! ### START (R142, R150) -/

/-- The installation block's fields of one channel. -/
structure ChanInst where
  address : Nat
  role : Role
  enabled : Bool
  alarmLow : Int
  alarmHigh : Int
  rateLimit : Nat
deriving DecidableEq, Repr

/-- R142: one channel record retaken. -/
def retakeChan (i : ChanInst) (c : Chan) : Chan :=
  let same := decide (i.address = c.address) && decide (i.role = c.role)
  let base : Chan :=
    { c with address := i.address, role := i.role, enabled := i.enabled, alarmLow := i.alarmLow, alarmHigh := i.alarmHigh,
             rateLimit := i.rateLimit }
  let cleared : Chan := { base with misses := 0, low := false, high := false, rateFlag := false }
  if !i.enabled then { cleared with state := .disabled }
  else if same && decide (c.state ≠ .disabled) then base
  else if same && c.lastGood.isSome then { cleared with state := .aged }
  else { cleared with state := .failed, value := 0, lastGood := none, rate := 0 }

/-- R150: a group after the retake of START. -/
def groupAtStart (s : State) (r : Role) (g : Group) : Group :=
  if (roleChans s.thermal.chans r).isEmpty then Group.blank
  else if g.state = .none then { state := .held, value := 0, spread := 0, spreadFlag := false, holdStart := some s.now }
  else g

/-- The channel is enabled with the address and role it had, so a read of it that a STOP left in progress is still its own (R142). -/
def sameChannel (old new : Chan) : Bool := new.enabled && (decide (old.address = new.address) && decide (old.role = new.role))

/-- A read left in progress is dropped when the retake has disabled its channel or given it another address or role: a value read from
one module is never taken as the value of another (R142, notes/assumptions/8.md). -/
def keepRead (old new : List Chan) (c : Option Cycle) : Option Cycle :=
  c.filter (fun c => sameChannel (old.getD c.chan Chan.blank) (new.getD c.chan Chan.blank))

/-- R142, R150: channel table, groups and published set at START. -/
def retakeThermal (chans : List ChanInst) (s : State) : State :=
  let old := s.thermal.chans
  let s := s.modThermal (fun t => { t with chans := mapIndexed (fun n c => retakeChan (chans.getD n ⟨0, .spare, false, 0, 0, 0⟩) c) 0 t.chans })
  let s := s.modThermal (fun t => { t with cycle := keepRead old t.chans t.cycle })
  let g := mapGroups (groupAtStart s) s.thermal.groups
  showThermal (publishGroups (s.modThermal (fun t => { t with groups := g })))

end Sys2Proof.Machine
end

