-- ==== Sys2Proof/Machine/Zones.lean ====
section
/-! DEFINITION. The zone arbiter (chapter 4): the common frame, boxes, needed sets, claims, the end of a wait, release by the envelope
rule with the re-evaluation of the other arm's wait, and the recomputation at START. -/

namespace Sys2Proof.Machine

/-! ### Frame and boxes (R73 to R75) -/

/-- Frame coordinate = sign × machine coordinate + offset (R73). -/
def frameCoord (f : FrameConst) (v : Int) : Int := f.sign * v + f.offset

/-- Machine coordinate = sign × (frame coordinate − offset) (R73). -/
def machineCoord (f : FrameConst) (v : Int) : Int := f.sign * (v - f.offset)

/-- An arm's machine position in the common frame (R73). -/
def toFrame (f : Axes FrameConst) (p : Vec3) : Vec3 := Axes.of (fun i => frameCoord (f.get i) (p.get i))

/-- A frame point in an arm's machine coordinates (R73). -/
def fromFrame (f : Axes FrameConst) (p : Vec3) : Vec3 := Axes.of (fun i => machineCoord (f.get i) (p.get i))

/-- Two closed boxes intersect: on each axis the lower end of each is at most the upper end of the other (R74). -/
def boxesMeet (p q : Box) : Bool :=
  decide (p.lo.x ≤ q.hi.x) && decide (q.lo.x ≤ p.hi.x) && decide (p.lo.y ≤ q.hi.y) && decide (q.lo.y ≤ p.hi.y) &&
    decide (p.lo.z ≤ q.hi.z) && decide (q.lo.z ≤ p.hi.z)

/-- The box widened on each axis by the half-widths (R74, R75). -/
def Box.widen (b : Box) (h : Axes Nat) : Box :=
  { lo := ⟨b.lo.x - h.x, b.lo.y - h.y, b.lo.z - h.z⟩, hi := ⟨b.hi.x + h.x, b.hi.y + h.y, b.hi.z + h.z⟩ }

/-- The box grown to take in a point. -/
def Box.include (b : Box) (p : Vec3) : Box :=
  { lo := ⟨min b.lo.x p.x, min b.lo.y p.y, min b.lo.z p.z⟩, hi := ⟨max b.hi.x p.x, max b.hi.y p.y, max b.hi.z p.z⟩ }

/-- A box meets a zone only if the zone is in use (R74). -/
def meetsZone (b : Box) (z : Zone) : Bool := z.inUse && boxesMeet b z.box

/-- Envelope box around a position, from given constants (R74). -/
def envelopeOf (c : Consts) (a : Arm) (p : Vec3) : Box :=
  let f := toFrame (c.frame.get a) p
  Box.widen { lo := f, hi := f } (c.half.get a)

/-- The arm's envelope box (R74). -/
def envelope (s : State) (a : Arm) : Box := envelopeOf s.inst a (s.position a)

/-- The swept box of a segment from the arm's present position (R75). -/
def sweptBox (s : State) (a : Arm) (r : SegReq) : Box :=
  let f := toFrame (s.inst.frame.get a) (s.position a)
  Box.widen (r.sweep.foldl (fun b p => b.include (toFrame (s.inst.frame.get a) p)) { lo := f, hi := f }) (s.inst.half.get a)

/-- The needed set of a segment: the zones in use that its swept box meets, and for a HOME segment every zone in use (R75). -/
def neededSet (s : State) (a : Arm) (r : SegReq) : List Nat :=
  match r.kind with
  | .home _ => indicesOf (fun z => z.inUse) 0 s.zones
  | _ => indicesOf (meetsZone (sweptBox s a r)) 0 s.zones

/-! ### Claims (R77, R78) -/

/-- The holder of a zone. -/
def zoneHolder (zs : List Zone) (i : Nat) : Option Arm := (zs.getD i Zone.blank).holder

/-- The claim can be granted: every zone of the set is free or held by the arm itself (R77). -/
def claimable (zs : List Zone) (a : Arm) (need : List Nat) : Bool :=
  need.all (fun i => decide (zoneHolder zs i ≠ some a.other))

/-- Every free zone of the set gets the arm as holder, in one operation (R77). -/
def grantZones (a : Arm) (need : List Nat) (zs : List Zone) : List Zone :=
  mapIndexed (fun i z => if need.contains i && z.holder.isNone then { z with holder := some a } else z) 0 zs

/-- The lowest-numbered zone of the set that the other arm holds (R77). -/
def blockingZone (zs : List Zone) (a : Arm) (need : List Nat) : Option Nat :=
  (indicesOf (fun z => decide (z.holder = some a.other)) 0 zs).find? (fun i => need.contains i)

/-- The zone for which an arm waits (R77). -/
def waitedZone (zs : List Zone) (a : Arm) : Option Nat := (indicesOf (fun z => decide (z.waiter = some a)) 0 zs).head?

/-- The other arm is in ZONE_WAIT for a zone that this arm holds (R78). -/
def wouldDeadlock (s : State) (a : Arm) : Bool :=
  match s.doing a.other with
  | .zoneWait _ _ _ =>
    (match waitedZone s.zones a.other with
      | some i => decide (zoneHolder s.zones i = some a)
      | none => false)
  | _ => false

/-- The arm becomes the waiter of a zone from the given moment on. -/
def setWaiter (a : Arm) (t : Stamp) (i : Nat) (zs : List Zone) : List Zone :=
  modifyAt (fun z => { z with waiter := some a, waitStart := some t }) i zs

/-- The arm is the waiter of no zone (R80 to R82). -/
def clearWaiter (a : Arm) (zs : List Zone) : List Zone :=
  zs.map (fun z => if z.waiter = some a then { z with waiter := none, waitStart := none } else z)

/-- The claim of a segment start that has no deadlock: granted, or the arm enters ZONE_WAIT (R77). -/
def claimOrWait (a : Arm) (r : SegReq) (s : State) : State :=
  let need := neededSet s a r
  if claimable s.zones a need then (setZones (grantZones a need s.zones) s).setDoing a (.granted r)
  else
    let zs := match blockingZone s.zones a need with
      | some i => setWaiter a s.now i s.zones
      | none => s.zones
    let t := if s.inst.zoneWait = 0 then none else some (s.timer (sec s.inst.zoneWait))
    setCause .armWait ((setZones zs s).modMot a (fun m => { m with state := .zoneWait, doing := .zoneWait r need t }))

/-- The claim would be refused, and waiting for it would close a circle (R78). -/
def claimDeadlocks (a : Arm) (r : SegReq) (s : State) : Bool :=
  !claimable s.zones a (neededSet s a r) && wouldDeadlock s a

/-! ### Re-evaluation and release (R80, R83) -/

/-- A wait's start time, kept when the waiter entry moves (R80). -/
def waitStartOf (s : State) (a : Arm) : Stamp :=
  match waitedZone s.zones a with
  | some i => ((s.zones.getD i Zone.blank).waitStart).getD s.now
  | none => s.now

/-- R80: the wait of arm `a` is judged again after a release by the other arm. -/
def reevaluate (a : Arm) (s : State) : State :=
  match s.doing a with
  | .zoneWait r need t =>
    if claimable s.zones a need then
      (setZones (grantZones a need (clearWaiter a s.zones)) s).modMot a (fun m => { m with state := .running, doing := .granted r })
    else
      match blockingZone s.zones a need with
      | some i => (setZones (setWaiter a (waitStartOf s a) i (clearWaiter a s.zones)) s).setDoing a (.zoneWait r need t)
      | none => s
  | _ => s

/-- The zones the envelope rule takes from an arm: those it holds and its envelope box does not meet (R83). -/
def releasable (b : Box) (a : Arm) (z : Zone) : Bool := decide (z.holder = some a) && !meetsZone b z

/-- R83: release by the envelope rule; an arm whose homed flag is clear keeps every zone it holds. A release re-evaluates the other
arm's wait once. -/
def releaseByEnvelope (a : Arm) (s : State) : State :=
  if (s.arm a).scale.homed then
    let b := envelope s a
    if s.zones.any (releasable b a) then
      reevaluate a.other (setZones (s.zones.map (fun z => if releasable b a z then { z with holder := none } else z)) s)
    else s
  else s

/-- R82: the wait of an arm ends without a grant; it keeps the zones it holds. -/
def endZoneWait (a : Arm) (s : State) : State := setZones (clearWaiter a s.zones) s

/-! ### START (R85) -/

/-- The zone table recomputed at START: every zone in use goes to the homed arm whose envelope box meets it (R85). -/
def claimAtStart (homed : Bool) (b : Box) (a : Arm) (zs : List Zone) : List Zone :=
  if homed then zs.map (fun z => if meetsZone b z then { z with holder := some a } else z) else zs

end Sys2Proof.Machine
end

