-- ==== Sys2Proof/Machine/Install.lean ====
section
/-! DEFINITION. The installation block: its fields (section 11.8), the ordered checks of a START with the field each reports (R12,
R183, section 1.5), and the constants it gives. -/

namespace Sys2Proof.Machine

/-! ### Where the groups lie (section 11.8) -/

/-- Place of an axis among the six, AX, AY, AZ, BX, BY, BZ. -/
def axisIndex : Arm → Axis → Nat
  | .A, .X => 0
  | .A, .Y => 1
  | .A, .Z => 2
  | .B, .X => 3
  | .B, .Y => 4
  | .B, .Z => 5

/-- Place of an arm among the two. -/
def armIndex : Arm → Nat
  | .A => 0
  | .B => 1

/-- First offset of an axis's record of the Axis group. -/
def axisBase (a : Arm) (i : Axis) : Nat := 0x8000 + 48 * axisIndex a i

/-- First offset of an axis's record of the Frame group. -/
def frameBase (a : Arm) (i : Axis) : Nat := 0x8120 + 16 * axisIndex a i

/-- First offset of an arm's half-widths. -/
def halfBase (a : Arm) : Nat := 0x8180 + 16 * armIndex a

/-- First offset of a zone record. -/
def zoneBase (n : Nat) : Nat := 0x81A0 + 64 * n

/-- First offset of a port's points. -/
def portBase (n : Nat) : Nat := 0x8408 + 48 * n

/-- First offset of a channel record. -/
def chanBase (n : Nat) : Nat := 0x8810 + 16 * n

/-- First offset of an arm's record of the Limits group. -/
def limitsBase (a : Arm) : Nat := 0x8C08 + 32 * armIndex a

/-- A signed field of the exchange memory. -/
def readInt (m : Mem) (a n : Nat) : Int := signedOf n (readNat m a n)

/-- Three signed 8-byte fields. -/
def readVec (m : Mem) (a : Nat) : Vec3 := ⟨readInt m a 8, readInt m (a + 8) 8, readInt m (a + 16) 8⟩

/-- A field written as 0 takes its default (section 1.5). -/
def orDefault (v d : Nat) : Nat := if v = 0 then d else v

/-! ### The fields -/

/-- The Axis group of one axis. -/
def readAxis (m : Mem) (a : Arm) (i : Axis) : AxisConst :=
  let b := axisBase a i
  { u := readNat m b 1, following := readNat m (b + 4) 4, accel := readNat m (b + 8) 4, creep := readNat m (b + 12) 4,
    alpha := readNat m (b + 16) 2, home := readInt m (b + 20) 4, lower := readInt m (b + 28) 8, upper := readInt m (b + 36) 8 }

/-- The Frame group of one axis: 0x01 is +1 and 0xFF is −1. -/
def readFrame (m : Mem) (a : Arm) (i : Axis) : FrameConst :=
  { sign := if readNat m (frameBase a i) 1 = 1 then 1 else -1, offset := readInt m (frameBase a i + 8) 8 }

/-- An arm's half-widths. -/
def readHalf (m : Mem) (a : Arm) : Axes Nat :=
  ⟨readNat m (halfBase a) 4, readNat m (halfBase a + 4) 4, readNat m (halfBase a + 8) 4⟩

/-- A zone record, with no holder and no waiter. -/
def readZone (m : Mem) (n : Nat) : Zone :=
  let b := zoneBase n
  { inUse := readNat m b 1 == 1, box := { lo := readVec m (b + 8), hi := readVec m (b + 32) }, speedLimit := readNat m (b + 4) 4,
    holder := none, waiter := none, waitStart := none }

/-- A port's approach and dock points in a record that keeps the rest. -/
def readPort (m : Mem) (n : Nat) (p : Port) : Port := { p with approach := readVec m (portBase n), dock := readVec m (portBase n + 24) }

/-- Role of a role code (section 11.7). -/
def roleOf : Nat → Option Role
  | 0 => some .spare
  | 1 => some (.scale .A .X)
  | 2 => some (.scale .A .Y)
  | 3 => some (.scale .A .Z)
  | 4 => some (.scale .B .X)
  | 5 => some (.scale .B .Y)
  | 6 => some (.scale .B .Z)
  | 7 => some (.part .A)
  | 8 => some (.part .B)
  | 9 => some .air
  | _ => none

/-- A channel's fields; a disabled channel whose role code is undefined is read as SPARE (notes/assumptions/11.md). -/
def readChan (m : Mem) (n : Nat) : ChanInst :=
  let b := chanBase n
  { address := readNat m b 1, role := (roleOf (readNat m (b + 1) 1)).getD .spare, enabled := readNat m (b + 2) 1 == 1,
    alarmLow := readInt m (b + 4) 2, alarmHigh := readInt m (b + 6) 2, rateLimit := readNat m (b + 8) 2 }

/-- The limits of one arm. -/
def readLimits (m : Mem) (a : Arm) : ArmLimits :=
  let b := limitsBase a
  { maxFeed := readNat m b 4, band := readNat m (b + 4) 4, idleTimeout := readNat m (b + 8) 1, wakeTime := readNat m (b + 10) 2,
    qXY := readInt m (b + 12) 4, qXZ := readInt m (b + 16) 4, qYZ := readInt m (b + 20) 4 }

/-- Call-stack regions of a split code: 8/24, 16/16 or 24/8 (section 2.4). -/
def splitOf : Nat → PerArm Nat
  | 1 => ⟨8, 24⟩
  | 3 => ⟨24, 8⟩
  | _ => ⟨16, 16⟩

/-- A value for each arm and axis. -/
def perAxis {α : Type} (f : Arm → Axis → α) : PerArm (Axes α) := { a := Axes.of (f .A), b := Axes.of (f .B) }

/-- The constants of the block, defaults substituted. -/
def readConsts (m : Mem) : Consts :=
  { axes := perAxis (readAxis m), frame := perAxis (readFrame m), half := ⟨readHalf m .A, readHalf m .B⟩,
    zoneWait := readNat m 0x83A0 2, lockRetries := readNat m 0x8401 1, rackWait := readNat m 0x8402 2,
    cyclePeriod := orDefault (readNat m 0x8800 2) 1000, missLimit := orDefault (readNat m 0x8802 1) 3,
    holdLimit := orDefault (readNat m 0x8804 2) 300, spreadLimit := orDefault (readNat m 0x8806 2) 500,
    requalBand := readNat m 0x8808 2, rescan := orDefault (readNat m 0x8C00 1) 5, regions := splitOf (readNat m 0x8C01 1),
    supplyLimit := orDefault (readNat m 0x8C02 2) 300, arms := ⟨readLimits m .A, readLimits m .B⟩ }

/-- The eight zones of the block. -/
def readZones (m : Mem) : List Zone := (List.range 8).map (readZone m)

/-- The thirty-two channels of the block. -/
def readChans (m : Mem) : List ChanInst := (List.range 32).map (readChan m)

/-! ### The checks (R12, R183) -/

/-- One check: it holds, or the START fails with the code and the offset. -/
structure Check where
  ok : Bool
  code : AreaCode
  offset : Nat

/-- A value lies in a range. -/
def within (lo v hi : Nat) : Bool := decide (lo ≤ v) && decide (v ≤ hi)

/-- Axis group, one axis. -/
def axisChecks (c : Consts) (a : Arm) (i : Axis) : List Check :=
  let b := axisBase a i
  let k := (c.axes.get a).get i
  [ ⟨decide (1 ≤ k.u), .installAxis, b⟩,
    ⟨within 1 k.following 10000000, .installAxis, b + 4⟩,
    ⟨decide (1 ≤ k.accel), .installAxis, b + 8⟩,
    ⟨decide (1 ≤ k.creep), .installAxis, b + 12⟩,
    ⟨decide (k.alpha ≤ 3000), .installAxis, b + 16⟩,
    ⟨decide (k.lower < k.upper), .installAxis, b + 36⟩ ]

/-- Frame group, one axis. -/
def frameChecks (m : Mem) (a : Arm) (i : Axis) : List Check :=
  let b := frameBase a i
  let sign := readNat m b 1
  let off := readInt m (b + 8) 8
  [ ⟨decide (sign = 0x01) || decide (sign = 0xFF), .installFrame, b⟩,
    ⟨decide (-coordinateLimit ≤ off) && decide (off ≤ coordinateLimit), .installFrame, b + 8⟩ ]

/-- Frame group, the half-widths of an arm. -/
def halfChecks (c : Consts) (a : Arm) : List Check :=
  let b := halfBase a
  let h := c.half.get a
  [ ⟨decide (h.x ≤ 1000000000), .installFrame, b⟩,
    ⟨decide (h.y ≤ 1000000000), .installFrame, b + 4⟩,
    ⟨decide (h.z ≤ 1000000000), .installFrame, b + 8⟩ ]

/-- The arm's position with given constants. -/
def positionWith (s : State) (c : Consts) (a : Arm) : Vec3 :=
  scalePositions (c.axes.get a) (s.arm a).scale.count (s.arm a).scale.cref

/-- The envelope box with given constants meets the zone, for a homed arm (R85) (notes/assumptions/22.md). -/
def envelopeMeets (s : State) (c : Consts) (z : Zone) (a : Arm) : Bool :=
  (s.arm a).scale.homed && meetsZone (envelopeOf c a (positionWith s c a)) z

/-- Zone group, one zone: its use and the envelope condition at the record's first byte, then the fields of a zone in use. -/
def zoneChecks (s : State) (c : Consts) (n : Nat) : List Check :=
  let b := zoneBase n
  let z := readZone s.mem n
  let used (ok : Bool) : Bool := !z.inUse || ok
  [ ⟨decide (readNat s.mem b 1 ≤ 1), .installZone, b⟩,
    ⟨!(envelopeMeets s c z .A && envelopeMeets s c z .B), .installZone, b⟩,
    ⟨used (decide (1 ≤ z.speedLimit)), .installZone, b + 4⟩,
    ⟨used (decide (z.box.lo.x ≤ z.box.hi.x)), .installZone, b + 32⟩,
    ⟨used (decide (z.box.lo.y ≤ z.box.hi.y)), .installZone, b + 40⟩,
    ⟨used (decide (z.box.lo.z ≤ z.box.hi.z)), .installZone, b + 48⟩ ]

/-- A point lies in a closed box. -/
def inBox (b : Box) (p : Vec3) : Bool := boxesMeet { lo := p, hi := p } b

/-- Rack group, one port: both points inside the rack zone's box. -/
def portChecks (m : Mem) (box : Box) (n : Nat) : List Check :=
  let p := readPort m n Port.blank
  [ ⟨inBox box p.approach, .installRack, portBase n⟩, ⟨inBox box p.dock, .installRack, portBase n + 24⟩ ]

/-- Rack group. -/
def rackChecks (m : Mem) (zones : List Zone) : List Check :=
  let z := zones.getD (readNat m 0x8400 1) Zone.blank
  [ ⟨z.inUse, .installRack, 0x8400⟩, ⟨decide (readNat m 0x8401 1 ≤ 3), .installRack, 0x8401⟩,
    ⟨within 1 (readNat m 0x8402 2) 600, .installRack, 0x8402⟩ ] ++ (List.range 16).flatMap (portChecks m z.box)

/-- Most enabled channels of a role (section 1.5). -/
def roleLimit : Role → Option Nat
  | .spare => none
  | .scale _ _ => some 2
  | .part _ => some 4
  | .air => some 4

/-- The number of enabled channels of a role among the first ones. -/
def roleCount (cs : List ChanInst) (r : Role) : Nat := (cs.filter (fun c => c.enabled && decide (c.role = r))).length

/-- The count of a role stays within its limit. -/
def countOk (r : Role) (n : Nat) : Bool :=
  match roleLimit r with
  | some k => decide (n ≤ k)
  | none => true

/-- Thermal group, channel `n`, judged against the channels before it. One whose enabled byte is neither 0 nor 1 is not enabled
(notes/assumptions/78.md). -/
def chanChecks (m : Mem) (cs : List ChanInst) (n : Nat) : List Check :=
  let b := chanBase n
  let c := readChan m n
  let used (ok : Bool) : Bool := !c.enabled || ok
  let before := cs.take n
  [ ⟨used (within 1 c.address 32 && !before.any (fun d => d.enabled && d.address == c.address)), .installThermal, b⟩,
    ⟨used ((roleOf (readNat m (b + 1) 1)).isSome && countOk c.role (roleCount (cs.take (n + 1)) c.role)), .installThermal, b + 1⟩,
    ⟨decide (readNat m (b + 2) 1 ≤ 1), .installThermal, b + 2⟩,
    ⟨used (decide (c.alarmLow < c.alarmHigh)), .installThermal, b + 6⟩,
    ⟨used (within 1 c.rateLimit 32767), .installThermal, b + 8⟩ ]

/-- Thermal group. -/
def thermalChecks (m : Mem) (c : Consts) : List Check :=
  [ ⟨within 250 c.cyclePeriod 10000, .installThermal, 0x8800⟩, ⟨within 1 c.missLimit 15, .installThermal, 0x8802⟩,
    ⟨within 10 c.holdLimit 3600, .installThermal, 0x8804⟩, ⟨within 1 c.spreadLimit 5000, .installThermal, 0x8806⟩,
    ⟨decide (c.requalBand ≤ 5000), .installThermal, 0x8808⟩ ] ++ (List.range 32).flatMap (chanChecks m (readChans m))

/-- Limits group, one arm. -/
def armLimitChecks (c : Consts) (a : Arm) : List Check :=
  let b := limitsBase a
  let l := c.arms.get a
  [ ⟨decide (1 ≤ l.maxFeed), .installLimits, b⟩, ⟨within 1 l.band 100000, .installLimits, b + 4⟩,
    ⟨within 500 l.wakeTime 10000, .installLimits, b + 10⟩ ]

/-- Limits group. -/
def limitChecks (m : Mem) (c : Consts) : List Check :=
  [ ⟨within 1 c.rescan 100, .installLimits, 0x8C00⟩, ⟨within 1 (readNat m 0x8C01 1) 3, .installLimits, 0x8C01⟩,
    ⟨within 100 c.supplyLimit 600 && decide (c.supplyLimit % 100 = 0), .installLimits, 0x8C02⟩ ] ++ bothArms.flatMap (armLimitChecks c)

/-- Every check of a START in the order in which it is made (R12, R183). -/
def installChecks (s : State) : List Check :=
  let c := readConsts s.mem
  bothArms.flatMap (fun a => Axis.all.flatMap (axisChecks c a)) ++
    (bothArms.flatMap (fun a => Axis.all.flatMap (frameChecks s.mem a)) ++ (bothArms.flatMap (halfChecks c) ++
      ((List.range 8).flatMap (zoneChecks s c) ++
        (⟨decide (readNat s.mem 0x83A0 2 ≤ 600), .installZone, 0x83A0⟩ ::
          (rackChecks s.mem (readZones s.mem) ++ (thermalChecks s.mem c ++ limitChecks s.mem c))))))

/-- The first check that fails, with its code and offset; none when the block is valid (R12). -/
def installFault (s : State) : Option (AreaCode × Nat) :=
  ((installChecks s).find? (fun k => !k.ok)).map (fun k => (k.code, k.offset))

/-! ### The retake (R13 step 3, R85) -/

/-- The zone table recomputed at START from the constants just read (R85). -/
def startZones (s : State) (c : Consts) : List Zone :=
  bothArms.foldl (fun zs a => claimAtStart (s.arm a).scale.homed (envelopeOf c a (positionWith s c a)) a zs) (readZones s.mem)

/-- The rack record at START: points and zone id from the block, recorded probes and sensors kept, holder NONE, the status request
sent (R102, R103). -/
def startRack (s : State) : State :=
  ({ s with rack :=
    { s.rack with
      holder := none, waiter := none, zone := some (readNat s.mem 0x8400 1), ports := mapIndexed (readPort s.mem) 0 s.rack.ports,
      statusTimer := some (s.timer (ms 100)), statusDue := List.range 16, missed := [] } }).send .rackStatusRequest

end Sys2Proof.Machine
end

