-- ==== Sys2Proof/Machine/Coordinates.lean ====
section
/-! DEFINITION. The coordinate unit (chapter 9): map evaluation, the seven-step chain, the flags of a point, and the map store's
checks and loads. -/

namespace Sys2Proof.Machine

/-! ### Map evaluation (R156) -/

/-- Node `k` of a loaded map, e[k] (R155). -/
def nodeAt (nodes : List Int) (d : MapDesc) (k : Nat) : Int := nodes.getD (d.base + k) 0

/-- A loaded map at a scale position: its value and MAP_EDGE (R156). -/
def evalMap (nodes : List Int) (d : MapDesc) (s : Int) : Int × Bool :=
  let step : Nat := 2 ^ d.m
  if s < d.s0 then (nodeAt nodes d 0, true)
  else if d.s0 + ((d.count - 1) * step : Nat) < s then (nodeAt nodes d (d.count - 1), true)
  else
    let rel := (s - d.s0).toNat
    let k := rel / step
    let f := rel - k * step
    if k = d.count - 1 then (nodeAt nodes d k, false)
    else (nodeAt nodes d k + roundDiv ((nodeAt nodes d (k + 1) - nodeAt nodes d k) * f) step, false)

/-- An absent descriptor contributes 0 and sets no flag (R156). -/
def evalDesc (nodes : List Int) (d : Option MapDesc) (s : Int) : Int × Bool :=
  match d with
  | some d => evalMap nodes d s
  | none => (0, false)

/-- The sum over the source axes of the maps of one direction, and whether any was evaluated beyond an end (R159). -/
def mapSum (nodes : List Int) (descs : Axes (Axes (Option MapDesc))) (j : Axis) (s : Vec3) : Int × Bool :=
  let x := evalDesc nodes (descs.x.get j) s.x
  let y := evalDesc nodes (descs.y.get j) s.y
  let z := evalDesc nodes (descs.z.get j) s.z
  (x.1 + y.1 + z.1, x.2 || (y.2 || z.2))

/-! ### The chain (R157 to R162) -/

/-- Divisor that brings nm × 1e-8/K × mK back to nm (R158). -/
def thermalDivisor : Nat := 100000000000

/-- Step 2: the scale thermal term of an axis (R158). -/
def thermalTerm (s alpha dt : Int) : Int := roundDiv (s * alpha * dt) thermalDivisor

/-- The squareness contribution to each direction, each term rounded on its own (R159). -/
def squareness (l : ArmLimits) (s : Vec3) : Vec3 :=
  ⟨roundDiv (s.y * l.qXY) 1000000000 + roundDiv (s.z * l.qXZ) 1000000000, roundDiv (s.z * l.qYZ) 1000000000, 0⟩

/-- Step 6: the part-corrected component (R161). -/
def partTerm (part : PartSetting) (dtPart r p : Int) : Int :=
  if part.on then p - roundDiv ((p - r) * part.alpha * dtPart) thermalDivisor else p

/-- Step 7: the limit of one component and whether it changed it (R162). -/
def limitCoord (q : Int) : Int × Bool :=
  if coordinateLimit < q then (coordinateLimit, true) else if q < -coordinateLimit then (-coordinateLimit, true) else (q, false)

/-- What the chain takes for one point. -/
structure ChainIn where
  counts : Counts
  cref : Counts
  axes : Axes AxisConst
  limits : ArmLimits
  nodes : List Int
  descs : Axes (Axes (Option MapDesc))
  part : PartSetting
  dtScale : Vec3
  dtPart : Int
  tip : Vec3
  deflection : Vec3

/-- Steps 1 to 5: the tip centre, and MAP_EDGE (R157 to R160). -/
def tipCentre (c : ChainIn) : Vec3 × Bool :=
  let s := scalePositions c.axes c.counts c.cref
  let q := squareness c.limits s
  let comp (j : Axis) : Int × Bool :=
    let g := mapSum c.nodes c.descs j s
    (s.get j + thermalTerm (s.get j) ((c.axes.get j).alpha) (c.dtScale.get j) - (g.1 + q.get j) + c.tip.get j + c.deflection.get j, g.2)
  (⟨(comp .X).1, (comp .Y).1, (comp .Z).1⟩, (comp .X).2 || ((comp .Y).2 || (comp .Z).2))

/-- The reported coordinate with MAP_EDGE and SATURATED (R157 to R162). -/
def chain (c : ChainIn) : Vec3 × Bool × Bool :=
  let p := tipCentre c
  let comp (j : Axis) : Int × Bool := limitCoord (partTerm c.part c.dtPart (c.part.datum.get j) (p.1.get j))
  (⟨(comp .X).1, (comp .Y).1, (comp .Z).1⟩, p.2, (comp .X).2 || ((comp .Y).2 || (comp .Z).2))

/-! ### Flags and hand-on (R135, R163, R164) -/

/-- The groups a point of the arm uses: its three SCALE groups, and its PART group when part compensation is on (R163). -/
def groupsUsed (g : Groups) (a : Arm) (partOn : Bool) : List Group :=
  (g.scale.get a).toList ++ (if partOn then [g.part.get a] else [])

/-- The flags that the snapshot alone decides, for a point and for a MISS (R163, R164). -/
def snapshotFlags (p : Published) (a : Arm) (part : PartSetting) (q : Qualification) : RecordFlags :=
  let used := groupsUsed p.groups a part.on
  { RecordFlags.clear with
    tempHeld := used.any (fun g => decide (g.state = .held))
    tempExpired := used.any (fun g => decide (g.state = .expired))
    spread := used.any (fun g => g.spreadFlag)
    partUnstable := p.partRate.get a
    probeExpired := decide (q ≠ .qualified)
    partUncorr := !part.on }

/-- ΔT of the three SCALE groups of an arm (R158). -/
def scaleTemps (p : Published) (a : Arm) : Vec3 :=
  ⟨(p.groups.scale.get a).x.value, (p.groups.scale.get a).y.value, (p.groups.scale.get a).z.value⟩

/-- ΔT_p as handed on: the PART group's value, or the none marker with compensation off (R164). -/
def partTemp (p : Published) (a : Arm) (part : PartSetting) : Int := if part.on then (p.groups.part.get a).value else noTemperature

/-- What the capture unit hands on for a point, with the context copy taken at the start of the point's own segment (R135). -/
structure PointIn where
  kind : RecordKind
  counts : Counts
  time : Stamp
  deflection : Vec3
  noDeflection : Bool
  offWindow : Bool
  attempts : Nat
  ctx : Context

/-- Tilt and swivel indices of the selected orientation entry; 0 where none is selected. -/
def selectedPair (c : Context) : Nat × Nat :=
  match c.selected with
  | some o => (o.tilt, o.swivel)
  | none => (0, 0)

/-- The tip offset of the selected orientation entry (R160). -/
def tipOffset (c : Context) : Vec3 :=
  match c.selected with
  | some o => o.offset
  | none => Vec3.zero

/-- The constants, maps and settings of an arm with a point's latch, temperatures, tip and deflection (R135, R154). -/
def chainIn (s : State) (a : Arm) (p : PointIn) : ChainIn :=
  { counts := p.counts, cref := (s.arm a).scale.cref, axes := s.inst.axes.get a, limits := s.inst.arms.get a, nodes := s.maps.nodes,
    descs := s.maps.descs.get a, part := s.maps.parts.get a, dtScale := scaleTemps s.thermal.published a,
    dtPart := (s.thermal.published.groups.part.get a).value, tip := tipOffset p.ctx, deflection := p.deflection }

/-- The record of a TOUCH or SCAN point (R157 to R164, R177). -/
def pointRecord (s : State) (a : Arm) (p : PointIn) : RecordData :=
  let ctx := p.ctx
  let part := s.maps.parts.get a
  let q := chain (chainIn s a p)
  { kind := p.kind, item := (s.arm a).exec.index, iteration := repeatIteration (s.arm a).exec, attempts := p.attempts, probe := ctx.index,
    tilt := (selectedPair ctx).1, swivel := (selectedPair ctx).2,
    flags := { snapshotFlags s.thermal.published a part ctx.copy.qualification with
      mapEdge := q.2.1, saturated := q.2.2, noDeflection := p.noDeflection, offWindow := p.offWindow },
    time := p.time, dtPart := partTemp s.thermal.published a part, dtScale := scaleTemps s.thermal.published a, content := q.1, hostTag := 0 }

/-- The record of a MISS: no coordinate, MAP_EDGE and SATURATED clear (R164, R177). -/
def missRecord (s : State) (a : Arm) (attempts : Nat) : RecordData :=
  let ctx := (s.arm a).cap.ctx
  let part := s.maps.parts.get a
  { kind := .miss, item := (s.arm a).exec.index, iteration := repeatIteration (s.arm a).exec, attempts := attempts, probe := ctx.index,
    tilt := (selectedPair ctx).1, swivel := (selectedPair ctx).2, flags := snapshotFlags s.thermal.published a part ctx.copy.qualification,
    time := s.now, dtPart := partTemp s.thermal.published a part, dtScale := scaleTemps s.thermal.published a, content := Vec3.zero,
    hostTag := 0 }

/-- The record of a MARK (R177, R178). -/
def markRecord (s : State) (a : Arm) (tag : Nat) : RecordData :=
  { kind := .mark, item := (s.arm a).exec.index, iteration := repeatIteration (s.arm a).exec, attempts := 0, probe := 0, tilt := 0, swivel := 0,
    flags := RecordFlags.clear, time := s.now, dtPart := noTemperature, dtScale := ⟨noTemperature, noTemperature, noTemperature⟩,
    content := Vec3.zero, hostTag := tag }

/-! ### The map store (R165 to R167) -/

/-- Axis code: 1 X, 2 Y, 3 Z (section 11.5). -/
def axisOfCode : Nat → Option Axis
  | 1 => some .X
  | 2 => some .Y
  | 3 => some .Z
  | _ => none

/-- Two runs of map memory overlap. -/
def runsOverlap (base count base' count' : Nat) : Bool := decide (base < base' + count') && decide (base' < base + count)

/-- The descriptor of (arm, i, j). -/
def MapStore.desc (m : MapStore) (a : Arm) (i j : Axis) : Option MapDesc := ((m.descs.get a).get i).get j

/-- The map store with one descriptor replaced. -/
def MapStore.setDesc (m : MapStore) (a : Arm) (i j : Axis) (d : Option MapDesc) : MapStore :=
  let t := m.descs.get a
  { m with descs := m.descs.set a (t.set i ((t.get i).set j d)) }

/-- Every (arm, i, j). -/
def mapKeys : List (Arm × Axis × Axis) := [Arm.A, Arm.B].flatMap (fun a => Axis.all.flatMap (fun i => Axis.all.map (fun j => (a, i, j))))

/-- R165 check 3: the region overlaps that of a loaded map other than the map of this arm and pair. -/
def overlapsOther (m : MapStore) (a : Arm) (i j : Axis) (base count : Nat) : Bool :=
  mapKeys.any (fun k =>
    decide (k ≠ (a, i, j)) &&
      (match m.desc k.1 k.2.1 k.2.2 with
        | some d => runsOverlap base count d.base d.count
        | none => false))

/-- The ranges of check 2 of R165 besides the axes. -/
def mapRangeOk (f : LoadMapFields) : Bool :=
  decide (12 ≤ f.m) && decide (f.m ≤ 26) && decide (2 ≤ f.count) && decide (f.count ≤ 1024) && decide (f.base ≤ 4095) &&
    decide (f.base + f.count ≤ 4096)

/-- R165: the fault of a LOAD_MAP, checks in order; without one, the pair it loads. -/
def judgeLoadMap (m : MapStore) (a : Arm) (f : LoadMapFields) : FaultCode ⊕ (Axis × Axis) :=
  if f.arm ≠ armCode a then .inl .mapArm
  else
    match axisOfCode f.i, axisOfCode f.j with
    | some i, some j =>
      if !mapRangeOk f then .inl .mapRange
      else if overlapsOther m a i j f.base f.count then .inl .mapOverlap
      else .inr (i, j)
    | _, _ => .inl .mapRange

/-- R166: nodes and descriptor change together. -/
def loadMapInto (m : MapStore) (a : Arm) (i j : Axis) (f : LoadMapFields) : MapStore :=
  let nodes := m.nodes.take f.base ++ f.nodes.take f.count ++ m.nodes.drop (f.base + f.count)
  ({ m with nodes := nodes }).setDesc a i j (some { s0 := f.s0, m := f.m, count := f.count, base := f.base })

/-- R167: the fault of a CLEAR_MAP; without one, the pair it clears. -/
def judgeClearMap (a : Arm) (arm i j : Nat) : FaultCode ⊕ (Axis × Axis) :=
  if arm ≠ armCode a then .inl .mapArm
  else
    match axisOfCode i, axisOfCode j with
    | some i, some j => .inr (i, j)
    | _, _ => .inl .mapRange

end Sys2Proof.Machine
end

