-- ==== Sys2Proof/Machine/ResultWriter.lean ====
section
/-! DEFINITION. The result writer (chapter 10): room, reservation of pages, record placing, closing and returning of pages, the plan
counts, and the outcome written into a slot. -/

namespace Sys2Proof.Machine

/-- Most records a page holds (section 11.6). -/
def pageRecords : Nat := 63

/-- The state with bytes of the exchange memory written by the part. -/
def State.write (s : State) (a : Nat) (bs : List Byte) : State := { s with mem := writeBytes s.mem a bs }

/-- A page index added to a view kept in rising order. -/
def insertPage (p : Nat) : List Nat → List Nat
  | [] => [p]
  | q :: t => if p < q then p :: q :: t else if p = q then q :: t else q :: insertPage p t

/-! ### Room (R172, R173) -/

/-- The room left in the arm's chain between items: 63 less the count of its current page, or 0 (R172). -/
def roomLeft (w : Writer) : Nat :=
  match w.chain.find? (fun c => c.count < pageRecords) with
  | some c => pageRecords - c.count
  | none => 0

/-- The further pages a request of `n` records needs (R172). -/
def pagesNeeded (w : Writer) (n : Nat) : Nat := ceilDiv (n - roomLeft w) pageRecords

/-- The lowest pages of the view are tagged FILLING one after another until `k` writes have succeeded or the view runs out; a page
whose write fails leaves the view (R172). Gives the pages tagged and the state. -/
def tagPages : List Nat → Nat → State → List Nat × State
  | _, 0, s => ([], s)
  | [], _, s => ([], s)
  | p :: t, k + 1, s =>
    let s' := condTag (pageBase p) tagGiven tagFilling { s with view := s.view.filter (fun q => q ≠ p) }
    if tagIs s (pageBase p) tagGiven then
      let r := tagPages t k s'
      (p :: r.1, r.2)
    else tagPages t (k + 1) s'

/-- A page is written back to GIVEN and, if the write succeeds, added to the view (R172, R176). -/
def returnPage (p : Nat) (s : State) : State :=
  let s' := condTag (pageBase p) tagFilling tagGiven s
  if tagIs s (pageBase p) tagFilling then { s' with view := insertPage p s'.view } else s'

/-- The next-page link of a page is written (R172, R176). -/
def setLink (p : Nat) (next : Option Nat) (s : State) : State := s.write (pageBase p + 12) (leBytes 2 (indexOrNone next))

/-- A newly reserved page's header (R172, R182). -/
def writeHeader (a : Arm) (plan : Plan) (p : Nat) (s : State) : State :=
  (s.write (pageBase p + 4) (pageHeaderBytes a plan)).write (pageBase p + 20) (zeros 44)

/-- Each page of the list is linked to the one after it (R172). -/
def linkPages : List Nat → State → State
  | p :: q :: t, s => linkPages (q :: t) (setLink p (some q) s)
  | _, s => s

/-- A successful reservation: headers and links are written and the pages join the arm's chain (R172). -/
def addPages (a : Arm) (plan : Plan) (pages : List Nat) (s : State) : State :=
  let last := ((s.arm a).wr.chain.getLast?).map (fun c => c.page)
  let s := pages.foldl (fun s p => writeHeader a plan p s) s
  let s := linkPages (match last with
    | some l => l :: pages
    | none => pages) s
  s.modWr a (fun w => { w with chain := w.chain ++ pages.map (fun p => { page := p, count := 0 }) })

/-- R172: a request of `n` records is judged. Gives whether it is granted, and the state. -/
def judgeRoom (a : Arm) (plan : Plan) (n : Nat) (s : State) : Bool × State :=
  if n ≤ roomLeft (s.arm a).wr then (true, s.modWr a (fun w => { w with grant := some n }))
  else
    let k := pagesNeeded (s.arm a).wr n
    if s.view.length < k then (false, s)
    else
      let r := tagPages s.view k s
      if r.1.length = k then (true, (addPages a plan r.1 r.2).modWr a (fun w => { w with grant := some n }))
      else (false, r.1.foldl (fun s p => returnPage p s) r.2)

/-- R173: a waiting request is considered again; a grant ends the wait, and the arm goes on with its item within the command. -/
def considerWaiting (a : Arm) (s : State) : State :=
  match (s.arm a).wr.waiting, (s.arm a).exec.plan with
  | some q, some plan =>
    let r := judgeRoom a plan q.n s
    if r.1 then
      (r.2.modWr a (fun w => { w with waiting := none })).modMot a (fun m => { m with state := .running, doing := .roomHeld })
    else r.2
  | _, _ => s

/-- The age of a waiting request. -/
def requestAge (s : State) (a : Arm) : Option Nat := (s.arm a).wr.waiting.map (fun q => s.since q.time)

/-- A draw of the free choice between the arms (notes/assumptions/6.md): arm A first? -/
def drawFirst (s : State) : Bool × State := (Config.firstServed s.draws, { s with draws := s.draws + 1 })

/-- R173: the older request first; two of one timestamp in either order. -/
def reconsiderRoom (s : State) : State :=
  match requestAge s .A, requestAge s .B with
  | some x, some y =>
    if y < x then considerWaiting .B (considerWaiting .A s)
    else if x < y then considerWaiting .A (considerWaiting .B s)
    else
      let d := drawFirst s
      if d.1 then considerWaiting .B (considerWaiting .A d.2) else considerWaiting .A (considerWaiting .B d.2)
  | some _, none => considerWaiting .A s
  | none, some _ => considerWaiting .B s
  | none, none => s

/-- R173: a waiting request is dropped without a grant. -/
def dropRequest (a : Arm) (s : State) : State := s.modWr a (fun w => { w with waiting := none })

/-! ### Closing and returning pages (R175, R176) -/

/-- R175: the FILLED write; the page leaves the chain whether or not it succeeds, and PAGE_CLOSED is set if it does. -/
def closePage (a : Arm) (p : Nat) (s : State) : State :=
  let s' := (condTag (pageBase p) tagFilling tagFilled s).modWr a (fun w => { w with chain := w.chain.filter (fun c => c.page ≠ p) })
  if tagIs s (pageBase p) tagFilling then setCause .pageClosed s' else s'

/-- The pages of a chain that hold no record. -/
def emptyPages (w : Writer) : List Nat := (w.chain.filter (fun c => c.count == 0)).map (fun c => c.page)

/-- The last kept page's link is set to none if that page is FILLING (R176). -/
def unlinkKept (a : Arm) (s : State) : State :=
  match (s.arm a).wr.lastKept with
  | some p => if (s.arm a).wr.chain.any (fun c => c.page == p) then setLink p none s else s
  | none => s

/-- R176: every page of the chain that holds no record is returned; the waiting requests are then considered. -/
def returnEmpties (a : Arm) (s : State) : State :=
  match emptyPages (s.arm a).wr with
  | [] => s
  | pages =>
    let s := (unlinkKept a s).modWr a (fun w => { w with chain := w.chain.filter (fun c => c.count ≠ 0) })
    reconsiderRoom (pages.foldl (fun s p => returnPage p s) s)

/-- R176: the grant is released at the item's completion. -/
def releaseGrant (a : Arm) (s : State) : State := returnEmpties a (s.modWr a (fun w => { w with grant := none }))

/-- R175, R176: at the end of a plan the page with records is closed, its link none, and the others are returned. -/
def closeChain (a : Arm) (s : State) : State :=
  let s := s.modWr a (fun w => { w with grant := none, waiting := none })
  let s := ((s.arm a).wr.chain.filter (fun c => c.count ≠ 0)).foldl (fun s c => closePage a c.page (setLink c.page none s)) s
  (returnEmpties a s).modWr a (fun w => { w with lastKept := none })

/-! ### Records (R174, R179) -/

/-- The lesser of two temperatures, an operand at the none marker passed over (R179). -/
def tempMin (x y : Int) : Int := if x = noTemperature then y else if y = noTemperature then x else min x y

/-- The greater of two temperatures, an operand at the none marker passed over (R179). -/
def tempMax (x y : Int) : Int := if x = noTemperature then y else if y = noTemperature then x else max x y

/-- The kind's temperatures enter the envelope: TOUCH and SCAN records only (R179). -/
def entersEnvelope : RecordKind → Bool
  | .touch => true
  | .scan => true
  | .miss => false
  | .mark => false

/-- The plan counts after a record placed in a page (R174 step 5, R179); the records written wrap (notes/assumptions/77.md). -/
def countRecord (r : RecordData) (page : Nat) (c : PlanCounts) : PlanCounts :=
  { c with
    written := (c.written + 1) % 2 ^ 32
    firstPage := some (c.firstPage.getD page)
    lastPage := some page
    envMin := if entersEnvelope r.kind then tempMin c.envMin r.dtPart else c.envMin
    envMax := if entersEnvelope r.kind then tempMax c.envMax r.dtPart else c.envMax }

/-- R174: a record is placed in the arm's current page. -/
def placeRecord (a : Arm) (r : RecordData) (s : State) : State :=
  match (s.arm a).exec.plan, (s.arm a).wr.chain.find? (fun c => c.count < pageRecords) with
  | some plan, some c =>
    let w := (s.arm a).wr
    let base := pageBase c.page
    let s := s.write (base + 64 + 64 * c.count) (recordBytes a plan w.recSeq r)
    let s := if c.count = 0 then s.write (base + 16) (leBytes 4 w.recSeq.toNat) else s
    let s := s.write (base + 10) (leBytes 2 (c.count + 1))
    let s := s.modWr a (fun w =>
      { w with
        grant := w.grant.map (fun n => n - 1)
        recSeq := w.recSeq + 1
        counts := countRecord r c.page w.counts
        lastKept := some c.page
        chain := w.chain.map (fun q => if q.page = c.page then { q with count := q.count + 1 } else q) })
    if c.count + 1 = pageRecords then closePage a c.page s else s
  | _, _ => s

/-- R179: a SCAN's dropped-point count is added to the plan's. -/
def addDropped (a : Arm) (n : Nat) (s : State) : State :=
  s.modWr a (fun w => { w with counts := { w.counts with dropped := satAdd16 w.counts.dropped n } })

/-! ### Outcomes (R45, R180) -/

/-- The outcome area is written and the slot is tagged DONE by a conditional write; PLAN_DONE is set if it succeeds (R45 steps 2 to 4). -/
def writeOutcome (slot expect : Nat) (o : PlanOutcome) (f : FaultCode) (items clamped : Nat) (c : PlanCounts) (s : State) : State :=
  let s := s.write (slotBase slot + 32) (outcomeBytes o f items clamped c)
  let s' := condTag (slotBase slot) expect tagDone s
  if tagIs s (slotBase slot) expect then setCause .planDone s' else s'

/-- An outcome written without plan counts: STALE, WITHDRAWN at take, INTERRUPTED (R22, R24, R13). -/
def writeBareOutcome (slot expect : Nat) (o : PlanOutcome) (s : State) : State :=
  writeOutcome slot expect o .none 0 0 PlanCounts.fresh s

end Sys2Proof.Machine
end

