-- ==== Sys2Proof/Machine/Activities.lean ====
section
/-! DEFINITION. What an arm does between two events, and how it ends: the rack claim and its end (R105, R106, R118), the abandoning of an
activity with its resume point (section 3.6.1, R117), and runtime faults (R57). -/

namespace Sys2Proof.Machine

/-! ### Drives, timers and idling -/

/-- The arm's three drives are switched off (R60). -/
def drivesOff (a : Arm) (s : State) : State := s.modMot a (fun m => { m with drives := Axes.all3 false })

/-- All three drives of the arm are enabled (R60). -/
def drivesOn (s : State) (a : Arm) : Bool := (s.arm a).mot.drives.every (fun d => d)

/-- The sample timer stops (R131, R134). -/
def stopSampling (a : Arm) (s : State) : State := s.modCap a (fun c => { c with sampleTimer := none })

/-- Entry to IDLE: the idle timer starts, unless the timeout is 0 (R70). -/
def enterIdle (a : Arm) (s : State) : State :=
  let n := (s.inst.arms.get a).idleTimeout
  let t := if n = 0 then none else some (s.timer (sec n))
  s.modMot a (fun m => { m with state := .idle, idleTimer := t })

/-- The standby request is withdrawn where it stands (R70, R71). -/
def withdrawStandby (a : Arm) (s : State) : State :=
  if (s.arm a).mot.standby then (s.modMot a (fun m => { m with standby := false })).send (.standbyWithdrawn a) else s

/-- Exit from IDLE and STANDBY: the idle timer stops and the standby request is withdrawn (R70). -/
def leaveRest (a : Arm) (s : State) : State := withdrawStandby a (s.modMot a (fun m => { m with idleTimer := none }))

/-- IDLE, or UNHOMED when the homed flag is clear (R51). -/
def idleOrUnhomed (a : Arm) (s : State) : State :=
  if (s.arm a).scale.homed then enterIdle a s else s.setArmState a .unhomed

/-! ### The rack (R105, R106, R118) -/

/-- The arm is the rack's waiter no longer (R107). -/
def endRackWait (a : Arm) (s : State) : State := if s.rack.waiter = some a then setRack { s.rack with waiter := none } s else s

/-- R106: the holder releases the rack, and a waiter is granted it at once; its phase is decided within the command. -/
def releaseRack (s : State) : State :=
  match s.rack.waiter with
  | some b =>
    (setRack { s.rack with holder := some b, waiter := none } s).modMot b (fun m => { m with state := .running, doing := .rackHeld })
  | none => setRack { s.rack with holder := none } s

/-- R118 step 3: every lid that the change commanded open and that does not report CLOSED is commanded closed. -/
def closeLids (ports : List Nat) (s : State) : State :=
  ports.foldl (fun s n => if (s.rack.port n).lid = .closed then s else s.send (.closeLid n)) s

/-- R118 steps 3 and 4: the end of the holder's change with its plan. -/
def endChange (a : Arm) (s : State) : State :=
  let opened := ((s.arm a).change.map (fun c => c.opened)).getD []
  if s.rack.holder = some a then releaseRack ((closeLids opened s).setChange a none) else s

/-- The change step that is in progress or abandoned (notes/assumptions/41.md). -/
def pendingStep (r : ArmRec) : Option ChangeStep :=
  match r.mot.doing, r.mot.resume with
  | .changing _, _ => r.change.map (fun c => c.step)
  | .nothing, some (.changeStep st) => some st
  | _, _ => none

/-- R118 step 2: a pending lock step is answered by a release command, a pending release step by a lock command. -/
def answerCoupling (a : Arm) (s : State) : State :=
  match pendingStep (s.arm a) with
  | some .p3lock => s.send (.release a)
  | some .p3unlock => s.send (.release a)
  | some .d5 => s.send (.lock a)
  | _ => s

/-! ### Abandoning (section 3.6.1, R98, R117, R123) -/

/-- Where a RESUME starts an abandoned change step again: P3 from its first lock, P6 from P5 where its abandonment switches the supply off,
and as it is where an overcurrent has done so (R101, notes/assumptions/12.md), P7 from its move; the open of P2 and the close of D8 stand
for themselves (notes/assumptions/72.md). `supplied`: the supply is on. -/
def restartStep (supplied : Bool) : ChangeStep → ChangeStep
  | .p3unlock => .p3lock
  | .p6 => if supplied then .p5 else .p6
  | .p7confirm => .p7move
  | st => st

/-- An abandoned P5 or P6 switches the supply off, and the context becomes UNPOWERED (R117). -/
def abandonSupply (a : Arm) (st : ChangeStep) (s : State) : State :=
  match st with
  | .p5 => unpower a (supplyOff a s)
  | .p6 => unpower a (supplyOff a s)
  | _ => s

/-- The resume point of a segment that an event ends: the segment, a change move to the point it had among them
(notes/assumptions/72.md), or the HOME axis not yet done. -/
def resumeOf (r : SegReq) : ResumePoint :=
  match r.kind with
  | .home rest => .home rest
  | _ => .segment r

/-- The time a timer has still to run. -/
def timeLeft (s : State) (t : Timer) : Nat := t.len - s.since t.start

/-- The arm does nothing more and carries a resume point. -/
def State.restAt (s : State) (a : Arm) (r : ResumePoint) : State := s.modMot a (fun m => { m with doing := .nothing, resume := some r })

/-- The resume point of an arm that stands, once a runtime fault reaches it: a DWELL that a HOLD paused is run again for its whole time (R62),
and any other point is kept (notes/assumptions/54.md). -/
def ResumePoint.whole : ResumePoint → ResumePoint
  | .dwell _ => .item
  | r => r

/-- The activity of an arm that has no segment in flight is abandoned, and gives the resume point. `whole`: a DWELL is run again for
its whole time (a runtime fault, R62), and not for the time left (a HOLD or an E-stop). A start that awaits its drives and a SCAN that
awaits its last sample resume at their segment (notes/assumptions/59.md), and a waiting room request is
dropped (notes/assumptions/66.md). -/
def abandon (a : Arm) (whole : Bool) (s : State) : State :=
  let s := stopSampling a s
  match s.doing a with
  | .handed => s.restAt a .item
  | .zoneWait r _ _ => (endZoneWait a s).restAt a (.zones r)
  | .shadowWait r => s.restAt a (resumeOf r)
  | .driveWait r _ _ _ => s.restAt a (resumeOf r)
  | .dwelling t => s.restAt a (if whole then .item else .dwell (timeLeft s t))
  | .indexing _ => (s.send (.halt a)).restAt a .item
  | .locating _ _ => (supplyOff a s).restAt a .item
  | .rackWait _ => (endRackWait a s).restAt a .rack
  | .changing _ =>
    (match (s.arm a).change with
      | some c => (abandonSupply a c.step s).restAt a (.changeStep (restartStep (s.arm a).head.supplyOn c.step))
      | none => s.restAt a .boundary)
  | .roomWait => (dropRequest a s).restAt a .room
  | .awaitSample r => s.restAt a (.segment r)
  | _ =>
    let r := (s.arm a).mot.resume.getD .boundary
    s.restAt a (if whole then r.whole else r)

/-! ### Runtime faults (R57) -/

/-- The faults after which the drives are switched off at rest (R60). -/
def switchesOff : FaultCode → Bool
  | .followingError => true
  | .driveFault => true
  | .scaleFault => true
  | _ => false

/-- The drives after a fault taken at rest. -/
def drivesAfter (a : Arm) (code : FaultCode) (s : State) : State := if switchesOff code then drivesOff a s else s

/-- SCALE_FAULT is kept against any later fault (R48, R57). -/
def keepScale (old new : FaultCode) : FaultCode := if old = .scaleFault then old else new

/-- The arm is FAULTED by a scale fault, or has a plan with which it will be at the release of the E-stop (R48, R69)
(notes/assumptions/31.md). -/
def scaleFaulted (s : State) (a : Arm) : Bool :=
  let m := (s.arm a).mot
  decide (m.lastFault = .scaleFault) && (decide (m.state = .faulted) || (m.estopFaulted && s.hasPlan a))

/-- The fault becomes the arm's last fault code and ARM_FAULT is set (R57). -/
def recordFault (a : Arm) (code : FaultCode) (s : State) : State :=
  let kept := scaleFaulted s a
  setCause .armFault (s.modMot a (fun m => { m with lastFault := if kept then m.lastFault else code }))

/-- A runtime fault taken at rest with its resume point: the arm enters FAULTED, or stays in ESTOP. A HOLD that waits for the end of the
item or of the wake is dropped (notes/assumptions/71.md), and the shown position stays as it was (notes/assumptions/75.md). -/
def faultAt (a : Arm) (code : FaultCode) (r : ResumePoint) (s : State) : State :=
  let s := drivesAfter a code (stopSampling a (recordFault a code s))
  s.modMot a (fun m =>
    { m with state := if m.state = .estop then .estop else .faulted, doing := .nothing, stop := none, resume := some r, wakeTimer := none,
             holdPending := false })

/-- The segment in flight is brought to a stop, or the stop under way takes on a further reason; sampling ends (R56, R134). -/
def stopFor (a : Arm) (f : Stop → Stop) (s : State) : State :=
  stopSampling a (s.modMot a (fun m => { m with stop := some (f (m.stop.getD Stop.plain)) }))

/-- A stop takes on a fault: a HOLD is dropped, SCALE_FAULT is kept (R57), and a fault that switches the drives off at rest does so
whatever fault follows it in the stop (R59, R60). -/
def Stop.takeFault (code : FaultCode) (st : Stop) : Stop :=
  { st with hold := false, fault := some (keepScale (st.fault.getD .none) code), drivesOff := st.drivesOff || switchesOff code }

/-- The step of a SET_LOCATION is abandoned at a runtime fault, and the item is the resume point (R95). -/
def abandonLocating (a : Arm) (s : State) : State :=
  match s.doing a with
  | .locating _ _ => abandon a true s
  | _ => s

/-- The fault code of an outcome that awaits a sample in flight, once a fault is raised meanwhile: WITHDRAWN has none (R43), ABORTED and STOPPED
take the fault (R66, R67, R72). -/
def endFault (o : PlanOutcome) (f code : FaultCode) : FaultCode := if o = .withdrawn then .none else keepScale f code

/-- A fault reaches an arm at rest whose plan's end awaits a sample: the outcome of an ABORT or STOP takes it (notes/assumptions/23.md); beside
WITHDRAWN, which is decided already (R43, R46), it becomes the arm's last fault code and sets ARM_FAULT (notes/assumptions/80.md). -/
def faultAtEnd (a : Arm) (o : PlanOutcome) (f code : FaultCode) (s : State) : State :=
  (if o = .withdrawn then recordFault a code s else s).setDoing a (.ending o (endFault o f code))

/-- R101: what is left to the boundary when an overcurrent ends it: the MOVE that has been fetched, or whose start awaits its drives, or at
which the arm is HELD, and any other item fetched but not begun, which the fetch at the boundary takes again; a DWELL and a HEAD are their own
resume points (R62, R98). The phase of a TOUCH or SCAN, the axis of a HOME and the move of a change stay theirs (R63, R115, R122, R134,
notes/assumptions/59.md). -/
def leftToBoundary (item : Option Item) : ResumePoint → Bool
  | .segment q => decide (q.kind = .move)
  | .item =>
    (match item with
      | some (.dwell _) => false
      | some (.head _ _) => false
      | _ => true)
  | _ => false

/-- No activity that R101 names is in progress: the arm stands, or has fetched an item, or a start awaits its drives. -/
def Doing.standsBefore : Doing → Bool
  | .nothing => true
  | .handed => true
  | .driveWait _ _ _ _ => true
  | _ => false

/-- R101: the resume point that SUPPLY_FAULT leaves where the activity `d` in progress has given `r`. -/
def supplyPoint (d : Doing) (item : Option Item) (r : ResumePoint) : ResumePoint :=
  if d.standsBefore && leftToBoundary item r then .boundary else r

/-- The resume point of a runtime fault that ends the activity of an arm at rest: what the activity has given, an overcurrent's as R101
gives. -/
def faultPoint (code : FaultCode) (d : Doing) (item : Option Item) (r : ResumePoint) : ResumePoint :=
  if code = .supplyFault then supplyPoint d item r else r

/-- R57: a runtime fault is raised for an arm, in whatever it does; a HELD arm keeps its resume point but for a DWELL and a MOVE
(notes/assumptions/23.md, notes/assumptions/54.md, notes/assumptions/59.md); a room wait loses its request (notes/assumptions/67.md), and a zone wait and a rack wait
end, with the wait as resume point, whichever fault it is (notes/assumptions/79.md). -/
def raiseFault (a : Arm) (code : FaultCode) (s : State) : State :=
  match s.doing a with
  | .inFlight _ => stopFor a (Stop.takeFault code) s
  | .ending o f => drivesAfter a code (faultAtEnd a o f code s)
  | _ =>
    if !s.hasPlan a then drivesAfter a code (recordFault a code s)
    else
      match (s.arm a).mot.state with
      | .faulted => abandonLocating a (drivesAfter a code (recordFault a code s))
      | .estop => abandonLocating a (drivesAfter a code (recordFault a code s))
      | _ =>
        let point := faultPoint code (s.doing a) (s.arm a).exec.item
        let s := abandon a true s
        faultAt a code (point ((s.arm a).mot.resume.getD .boundary)) s

end Sys2Proof.Machine
end

