-- ==== Sys2Proof/WellFormed.lean ====
section
/-! DEFINITION. The commands the outside world can form: port numbers exist, a status reply lists ports of the rack,
an ignored register write is one that R182 ignores, and a low data wire has a moment at which it went low. -/

namespace Sys2Proof

/-- Registers to which every write is ignored: IDENT, STATE, AREA_ERROR (section 1.4, section 11.2). -/
def readOnlyRegister (offset : Nat) : Bool := offset == 0x00 || offset == 0x0C || offset == 0x18

/-- The bits of a register's word that a write to it can act on (section 11.2); all others are undefined bits. -/
def writableBits (offset : Nat) : BitVec 32 :=
  match offset with
  | 0x04 => 0x0000000F#32
  | 0x08 => 0x00000033#32
  | 0x10 => 0x000003FF#32
  | 0x14 => 0x000003FF#32
  | _ => 0#32

/-- R182: the write names a read-only register, or CONTROL with only undefined bits set. -/
def ignoredWrite (offset : Nat) (value : BitVec 32) : Bool :=
  readOnlyRegister offset || (offset == 0x04 && (value &&& writableBits offset) == 0#32)

/-- The operands of a command lie in the ranges the spec gives them (ports 0..15: R102). -/
def Instr.wellFormed : Instr → Bool
  | .lidReport port _ => port < 16
  | .occupancyReport port _ => port < 16
  | .rackStatusReply ports => ports.all (fun p => p.port < 16)
  | .registerWriteIgnored offset value => ignoredWrite offset value
  | _ => true

end Sys2Proof
end

