-- ==== Sys2Proof/Machine/Operands.lean ====
section
/-! DEFINITION. The operand forms: an item's bytes as an item (R29, R30, section 11.5), a slot's header fields (section 11.4), and a
host write to a register as the commands it is taken for (R7, R8, section 11.2). -/

namespace Sys2Proof.Machine

/-! ### Slot headers (section 11.4) -/

/-- First byte of a slot's items. -/
def itemsBase (slot : Nat) : Nat := slotBase slot + 64

/-- The arm a slot's header names; none for any other code (R6). -/
def slotArm (m : Mem) (slot : Nat) : Option Arm :=
  match readNat m (slotBase slot + 4) 1 with
  | 1 => some .A
  | 2 => some .B
  | _ => none

/-- The withdraw flag: 0 is clear, any other value is set (R181). -/
def withdrawSet (m : Mem) (slot : Nat) : Bool := readNat m (slotBase slot + 5) 1 ≠ 0

/-- Sequence number of a slot's header. -/
def slotSeq (m : Mem) (slot : Nat) : Nat := readNat m (slotBase slot + 6) 2

/-- Item byte length of a slot's header. -/
def slotLength (m : Mem) (slot : Nat) : Nat := readNat m (slotBase slot + 8) 2

/-- What the executor copies from the header at the take (R20). -/
def planOf (m : Mem) (slot : Nat) : Plan :=
  { slot := slot, seq := slotSeq m slot, len := slotLength m slot, miss := readNat m (slotBase slot + 10) 1,
    expiredProbe := readNat m (slotBase slot + 11) 1, expiredTemp := readNat m (slotBase slot + 12) 1 }

/-- An item byte length that R29 refuses. -/
def lengthBad (n : Nat) : Bool := decide (4032 < n) || decide (n % 8 ≠ 0)

/-- A policy field holding neither of its two values (R29). -/
def policyBad (c : Nat) : Bool := c ≠ 1 && c ≠ 2

/-- A policy field of the plan that R29 refuses. -/
def policiesBad (p : Plan) : Bool := policyBad p.miss || (policyBad p.expiredProbe || policyBad p.expiredTemp)

/-! ### Items (section 11.5) -/

/-- Bits of the UPDATE_PROBE field mask. -/
def maskBit (mask n : Nat) : Bool := mask / 2 ^ n % 2 = 1

/-- Number of orientation entries an UPDATE_PROBE carries: the list count with bit 9, one with bit 10, none otherwise. -/
def orientCount (mask listCount : Nat) : Nat := if maskBit mask 9 then listCount else if maskBit mask 10 then 1 else 0

/-- A number rounded up to a multiple of 8. -/
def roundUp8 (n : Nat) : Nat := (n + 7) / 8 * 8

/-- The length that the layout of a kind asks for, from the item's own counts; none for a kind outside the sixteen (R29). -/
def layoutLength (kind : Nat) (bs : List Byte) : Option Nat :=
  match kind with
  | 1 => some 40
  | 2 => some 16
  | 3 => some 8
  | 4 => some 48
  | 5 => some (32 + 24 * field bs 14 1)
  | 6 => some 16
  | 7 => some 16
  | 8 => some 16
  | 9 => some 8
  | 10 => some 40
  | 11 => some 16
  | 12 => some (40 + 16 * orientCount (field bs 10 2) (field bs 32 1))
  | 13 => some 16
  | 14 => some (roundUp8 (24 + 2 * field bs 12 2))
  | 15 => some 16
  | 16 => some 32
  | _ => none

/-- R29: the item head passes, with `left` bytes from the item pointer to the end of the slot. -/
def headOk (bs : List Byte) (left : Nat) : Bool :=
  let len := field bs 2 2
  decide (8 ≤ len) && (decide (len % 8 = 0) && (decide (len ≤ left) &&
    (decide (layoutLength (field bs 0 2) bs = some len) && decide (field bs 4 4 = 0))))

/-- A value, or BAD_ITEM where the check fails. -/
def checked {α : Type} (ok : Bool) (v : α) : FaultCode ⊕ α := if ok then .inr v else .inl .badItem

/-- MOVE (R30). -/
def moveOf (bs : List Byte) : FaultCode ⊕ Item := checked (1 ≤ field bs 32 4) (.move (fieldVec bs 8 8) (field bs 32 4))

/-- DWELL, its time held at 65,535 ms (R30, R33). -/
def dwellOf (bs : List Byte) : FaultCode ⊕ Item := checked (1 ≤ field bs 8 4) (.dwell (min (field bs 8 4) 65535))

/-- TOUCH (R30). -/
def touchOf (bs : List Byte) : FaultCode ⊕ Item :=
  let f : TouchFields :=
    { target := fieldVec bs 8 8, touchFeed := field bs 32 4, measureFeed := field bs 36 4, retractFeed := field bs 40 4,
      backoff := field bs 44 2, retries := field bs 46 1 }
  checked (decide (1 ≤ f.touchFeed) && (decide (1 ≤ f.retractFeed) && (decide (1 ≤ f.backoff) && (decide (f.backoff ≤ 1023) &&
    decide (f.retries ≤ 3))))) (.touch f)

/-- The `n` waypoints of a SCAN, from offset `off` of the item. -/
def waypointsOf (bs : List Byte) : Nat → Nat → List Vec3
  | _, 0 => []
  | off, n + 1 => fieldVec bs off 8 :: waypointsOf bs (off + 24) n

/-- SCAN (R30). -/
def scanOf (bs : List Byte) : FaultCode ⊕ Item :=
  let w := field bs 14 1
  let f : ScanFields :=
    { feed := field bs 8 4, period := field bs 12 2, lo := field bs 16 4, hi := field bs 20 4, maxPoints := field bs 24 2,
      waypoints := waypointsOf bs 32 w }
  checked (decide (1 ≤ w) && (decide (w ≤ 16) && (decide (1 ≤ f.feed) && (decide (100 ≤ f.period) && (decide (f.lo ≤ f.hi) &&
    (decide (1 ≤ f.maxPoints) && decide (f.maxPoints ≤ 4095))))))) (.scan f)

/-- Tilt and swivel indices lie in their ranges (R30, R86). -/
def pairOk (tilt swivel : Nat) : Bool := decide (tilt ≤ 14) && decide (swivel ≤ 48)

/-- HEAD (R30). -/
def headOf (bs : List Byte) : FaultCode ⊕ Item :=
  checked (pairOk (field bs 8 1) (field bs 9 1)) (.head (field bs 8 1) (field bs 9 1))

/-- CHANGE (R30). -/
def changeOf (bs : List Byte) : FaultCode ⊕ Item :=
  if field bs 8 1 ≤ 31 then .inr (.change (field bs 8 1)) else .inl .badProbeIndex

/-- CALL: the slot index (R30); R37 judges the rest. -/
def callOf (bs : List Byte) : FaultCode ⊕ Item := checked (field bs 8 2 ≤ 127) (.call (field bs 8 2))

/-- Probe kind code of an item (section 11.5). -/
def kindOf : Nat → Option ProbeKind
  | 1 => some .touch
  | 2 => some .scan
  | _ => none

/-- Permission code of an item (section 11.5). -/
def permissionOf : Nat → Option Permission
  | 1 => some .onlyA
  | 2 => some .onlyB
  | 3 => some .both
  | _ => none

/-- The orientation entry at an offset of the item. -/
def orientAt (bs : List Byte) (off : Nat) : OrientEntry :=
  { tilt := field bs off 1, swivel := field bs (off + 1) 1, offset := fieldVec bs (off + 4) 4 }

/-- The `n` orientation entries of an UPDATE_PROBE, from offset `off` of the item. -/
def orientsAt (bs : List Byte) : Nat → Nat → List OrientEntry
  | _, 0 => []
  | off, n + 1 => orientAt bs off :: orientsAt bs (off + 16) n

/-- An orientation entry's indices lie in their ranges (R86). -/
def orientOk (o : OrientEntry) : Bool := pairOk o.tilt o.swivel

/-- No two entries of the list share one (tilt, swivel) pair (R86, R92). -/
def pairsDistinct : List OrientEntry → Bool
  | [] => true
  | o :: t => !t.any (fun e => e.tilt == o.tilt && e.swivel == o.swivel) && pairsDistinct t

/-- A field of the mask: not selected, or selected with its value. -/
def picked {α : Type} (sel : Bool) (v : α) : Option α := if sel then some v else none

/-- The qualification an UPDATE_PROBE carries: QUALIFIED with its Tq, or UNQUALIFIED (R92). -/
def qualificationOf (code : Nat) (tq : Int) : Option Int := if code = 1 then some tq else none

/-- The fields of an UPDATE_PROBE as they stand in the item; codes have been checked by `updateOk`. -/
def updateFields (bs : List Byte) : ProbeUpdate :=
  let mask := field bs 10 2
  { entry := field bs 8 1
    present := picked (maskBit mask 0) (field bs 12 1 == 1)
    kind := picked (maskBit mask 1) ((kindOf (field bs 13 1)).getD .touch)
    identity := picked (maskBit mask 2) (field bs 16 2)
    permission := picked (maskBit mask 3) ((permissionOf (field bs 14 1)).getD .both)
    homePort := picked (maskBit mask 4) (field bs 15 1)
    speedLimit := picked (maskBit mask 5) (field bs 20 4)
    settle := picked (maskBit mask 6) (field bs 18 2)
    overtravel := picked (maskBit mask 7) (field bs 24 4)
    qualification := picked (maskBit mask 8) (qualificationOf (field bs 28 1) (fieldS bs 30 2))
    orients := picked (maskBit mask 9) (orientsAt bs 40 (field bs 32 1))
    single := picked (maskBit mask 10) (field bs 33 1, orientAt bs 40) }

/-- A check that is made only of a selected field. -/
def ifSel (sel ok : Bool) : Bool := !sel || ok

/-- The qualification code and its temperature lie in their ranges (R86, R92). -/
def qualificationOk (code : Nat) (tq : Int) : Bool := decide (code = 3) || (decide (code = 1) && (decide (-20000 ≤ tq) && decide (tq ≤ 30000)))

/-- R30, R86, R92: the checks of an UPDATE_PROBE besides its entry. -/
def updateOk (bs : List Byte) : Bool :=
  let mask := field bs 10 2
  decide (mask ≠ 0) && (decide (mask < 2048) && (!(maskBit mask 9 && maskBit mask 10) &&
    (ifSel (maskBit mask 0) (field bs 12 1 ≤ 1) &&
    (ifSel (maskBit mask 1) (kindOf (field bs 13 1)).isSome &&
    (ifSel (maskBit mask 3) (permissionOf (field bs 14 1)).isSome &&
    (ifSel (maskBit mask 4) (field bs 15 1 ≤ 15) &&
    (ifSel (maskBit mask 5) (1 ≤ field bs 20 4) &&
    (ifSel (maskBit mask 6) (field bs 18 2 ≤ 500) &&
    (ifSel (maskBit mask 7) (1 ≤ field bs 24 4) &&
    (ifSel (maskBit mask 8) (qualificationOk (field bs 28 1) (fieldS bs 30 2)) &&
    (ifSel (maskBit mask 9) (decide (field bs 32 1 ≤ 8) &&
      ((orientsAt bs 40 (field bs 32 1)).all orientOk && pairsDistinct (orientsAt bs 40 (field bs 32 1)))) &&
    ifSel (maskBit mask 10) (decide (field bs 33 1 ≤ 7) && orientOk (orientAt bs 40)))))))))))))

/-- UPDATE_PROBE (R30, R92). -/
def updateOf (bs : List Byte) : FaultCode ⊕ Item :=
  if field bs 8 1 = 0 ∨ 31 < field bs 8 1 then .inl .badProbeIndex else checked (updateOk bs) (.updateProbe (updateFields bs))

/-- The location a SET_LOCATION declares: UNKNOWN, PORT n with n 0..15, ARM A or B; none for any other code (R30). -/
def locationOf (code number : Nat) : Option Location :=
  match code with
  | 1 => some .unknown
  | 2 => if number ≤ 15 then some (.port number) else none
  | 3 => (match number with
    | 1 => some (.arm .A)
    | 2 => some (.arm .B)
    | _ => none)
  | _ => none

/-- SET_LOCATION (R30). -/
def setLocationOf (bs : List Byte) : FaultCode ⊕ Item :=
  if 31 < field bs 8 1 then .inl .badProbeIndex
  else
    match locationOf (field bs 9 1) (field bs 10 1) with
    | some l => .inr (.setLocation (field bs 8 1) l)
    | none => .inl .badItem

/-- The `n` nodes of a LOAD_MAP, from offset `off` of the item. -/
def nodesAt (bs : List Byte) : Nat → Nat → List Int
  | _, 0 => []
  | off, n + 1 => fieldS bs off 2 :: nodesAt bs (off + 2) n

/-- LOAD_MAP; the coordinate unit judges its fields (R30, R165). -/
def loadMapOf (bs : List Byte) : Item :=
  .loadMap { arm := field bs 8 1, i := field bs 9 1, j := field bs 10 1, m := field bs 11 1, count := field bs 12 2, base := field bs 14 2,
             s0 := fieldS bs 16 5, nodes := nodesAt bs 24 (field bs 12 2) }

/-- SET_PART (R30). -/
def setPartOf (bs : List Byte) : FaultCode ⊕ Item :=
  checked (decide (field bs 23 2 ≤ 3000) && decide (field bs 25 1 ≤ 1))
    (.setPart (fieldVec bs 8 5) (field bs 23 2) (field bs 25 1 == 1))

/-- R30: the item of a kind whose head has passed. -/
def bodyOf (kind : Nat) (bs : List Byte) : FaultCode ⊕ Item :=
  match kind with
  | 1 => moveOf bs
  | 2 => dwellOf bs
  | 3 => .inr .home
  | 4 => touchOf bs
  | 5 => scanOf bs
  | 6 => headOf bs
  | 7 => changeOf bs
  | 8 => callOf bs
  | 9 => .inr .returnItem
  | 10 => .inr (.repeatItem (field bs 8 1) (fieldVec bs 16 8))
  | 11 => .inr (.mark (field bs 8 4))
  | 12 => updateOf bs
  | 13 => setLocationOf bs
  | 14 => .inr (loadMapOf bs)
  | 15 => .inr (.clearMap (field bs 8 1) (field bs 9 1) (field bs 10 1))
  | 16 => setPartOf bs
  | _ => .inl .badItem

/-- The item at an offset of a slot, with its length, where `left` bytes remain in the slot (R29, R30). -/
def decodeItem (m : Mem) (slot off left : Nat) : FaultCode ⊕ (Item × Nat) :=
  let base := itemsBase slot + off
  let head := readBytes m base 40
  if headOk head left then
    let len := field head 2 2
    match bodyOf (field head 0 2) (readBytes m base len) with
    | .inl f => .inl f
    | .inr i => .inr (i, len)
  else .inl .badItem

/-- R40: an item follows a REPEAT in the slot, and its kind is MOVE, TOUCH, SCAN or CALL. Nothing else of it is judged before its own
fetch. -/
def governable (m : Mem) (slot off left : Nat) : Bool :=
  decide (0 < left) && [1, 4, 5, 8].contains (readNat m (itemsBase slot + off) 2)

/-- The motion items of R31. -/
def Item.isMotion : Item → Bool
  | .move _ _ => true
  | .touch _ => true
  | .scan _ => true
  | .change _ => true
  | .dwell _ => false
  | .home => false
  | .head _ _ => false
  | .call _ => false
  | .returnItem => false
  | .repeatItem _ _ => false
  | .mark _ => false
  | .updateProbe _ => false
  | .setLocation _ _ => false
  | .loadMap _ => false
  | .clearMap _ _ _ => false
  | .setPart _ _ _ => false

/-- The non-motion items that complete at their own step, whatever event reaches the arm between their fetch and it: all but HOME, DWELL
and HEAD, which take time (R64, R68, R101). -/
def Item.runsOut : Item → Bool
  | .home => false
  | .dwell _ => false
  | .head _ _ => false
  | i => !i.isMotion

/-- The items during which a HOLD stops the arm at once: the motion items, HOME and DWELL (R64). -/
def Item.heldAtOnce : Item → Bool
  | .home => true
  | .dwell _ => true
  | i => i.isMotion

/-! ### Register writes (R7, R8, R182) -/

/-- R7: the commands that a write to CONTROL is taken for. -/
def controlCommands (v : BitVec 32) : List Instr :=
  if v.getLsbD 2 then [.softReset]
  else
    let both := v.getLsbD 0 && v.getLsbD 1
    let l := (if v.getLsbD 0 && !both then [Instr.start] else []) ++
      ((if v.getLsbD 1 && !both then [Instr.stop] else []) ++ (if v.getLsbD 3 then [Instr.nudge] else []))
    if (v &&& writableBits 0x04) = 0#32 then [.registerWriteIgnored 0x04 v] else l

/-- The arm field of ARM_CMD (section 11.2). -/
def armField (v : BitVec 32) : Option ArmSel :=
  match v.toNat % 4 with
  | 1 => some .armA
  | 2 => some .armB
  | 3 => some .both
  | _ => none

/-- R8: the command that a write to ARM_CMD is taken for. -/
def armCommand (v : BitVec 32) : Instr :=
  match armField v, v.toNat / 16 % 4 with
  | some sel, 1 => .hold sel
  | some sel, 2 => .resume sel
  | some sel, 3 => .abort sel
  | _, _ => .armCmdUndefined

/-- The commands that a host write to a register is taken for (section 1.4) (notes/assumptions/40.md). DESIGN CHOICE: a write to an offset of
the window that holds no register is none (notes/assumptions/81.md). -/
def registerWrite (offset : Nat) (v : BitVec 32) : List Instr :=
  match offset with
  | 0x00 => [.registerWriteIgnored 0x00 v]
  | 0x04 => controlCommands v
  | 0x08 => [armCommand v]
  | 0x0C => [.registerWriteIgnored 0x0C v]
  | 0x10 => [.causeWrite v]
  | 0x14 => [.maskWrite v]
  | 0x18 => [.registerWriteIgnored 0x18 v]
  | _ => []

end Sys2Proof.Machine
end

