-- ==== Sys2Proof/Machine/Executor.lean ====
section
/-! DEFINITION. The arm executor (chapter 2): the end of a plan, the fetch with its checks, the completion of an item, and the pop of the
call stack. -/

namespace Sys2Proof.Machine

/-! ### The end of a plan (R35, R45, R51) -/

/-- The executor after the end of a plan: no plan, the stack empty, the repeat state absent, the offset zero, the counters kept (R25). -/
def Executor.ended (e : Executor) : Executor :=
  { e with plan := none, stack := [], rep := none, pattern := Vec3.zero, headerDue := false, policyDue := false, item := none }

/-- The capture unit without an item (R122). -/
def Capture.cleared (c : Capture) : Capture :=
  { c with item := none, phase := .idle, attempts := 0, hit := none, pointTaken := false, sampleTimer := none, sample := none, points := 0,
           dropped := 0 }

/-- The capture unit's end with the plan: the dropped count is handed on, the unit is cleared and the latch emptied (R121, R122, R133). -/
def endCapture (a : Arm) (s : State) : State :=
  let s := addDropped a (s.arm a).cap.dropped s
  (s.modCap a Capture.cleared).modScale a (fun sc => { sc with latch := none })

/-- R51: the arm leaves the state that held the plan. In ESTOP it stays there, and it is still known whether it was FAULTED at the assertion or
took SCALE_FAULT since: a plan taken before the release leaves ESTOP by that (R69, notes/assumptions/25.md). -/
def leavePlan (a : Arm) (s : State) : State :=
  let s := s.modMot a (fun m => { m with doing := .nothing, stop := none, resume := none, holdPending := false })
  match (s.arm a).mot.state with
  | .waking => s
  | .estop => s
  | _ => idleOrUnhomed a s

/-- What the end of a plan does before the result writer acts: the change is ended, the capture unit hands on its dropped count. -/
def closePlan (a : Arm) (s : State) : State := closeChain a (endCapture a (endChange a s))

/-- The fault becomes the arm's last fault code if it is not none (R45). -/
def showFault (a : Arm) (f : FaultCode) (s : State) : State :=
  if f = .none then s else s.modMot a (fun m => { m with lastFault := f })

/-- R45: the end of a taken plan with an outcome. -/
def endPlan (a : Arm) (o : PlanOutcome) (f : FaultCode) (s : State) : State :=
  match (s.arm a).exec.plan with
  | some p =>
    let s := closePlan a s
    let e := (s.arm a).exec
    let s := writeOutcome p.slot tagTaken o f e.itemsDone e.feedsClamped (s.arm a).wr.counts s
    leavePlan a (showFault a f (s.modExec a Executor.ended))
  | none => s

/-- R35: the end of a plan whose slot has been revoked, without outcome and without tag write. -/
def endRevoked (a : Arm) (s : State) : State := leavePlan a (showFault a .slotRevoked ((closePlan a s).modExec a Executor.ended))

/-- R32: a plan-ending fault. -/
def failPlan (a : Arm) (f : FaultCode) (s : State) : State := endPlan a .failed f s

/-! ### The call stack (R37, R38, R41) -/

/-- Depth at which a push sets STACK_WARN: the region size less 2 (R38). -/
def warnDepth (s : State) (a : Arm) : Nat := s.inst.regions.get a - 2

/-- Length of a CALL item (section 11.5). -/
def callLength : Nat := 16

/-- Item counts of the taken slot itself only, at depth 0 (R34). -/
def countItem (e : Executor) : Executor := if e.stack.isEmpty then { e with itemsDone := e.itemsDone + 1 } else e

/-- R37, R41: the top entry is popped; `libLen` is the length in the return slot's header, read again for a library slot. -/
def popEntry (warn : Nat) (libLen : Nat) (c : CallEntry) (rest : List CallEntry) (e : Executor) : Executor :=
  let back : Executor :=
    { e with
      slot := c.slot, stack := rest, index := c.index, offset := c.offset, pattern := c.savedOffset, rep := none,
      slotLen := if rest.isEmpty then (e.plan.map (fun p => p.len)).getD 0 else libLen
      headerDue := !rest.isEmpty
      warnArmed := e.warnArmed || decide (rest.length < warn) }
  match c.rep with
  | none => countItem back
  | some r =>
    if r.remaining = 0 then countItem { back with index := c.index + 1, offset := c.offset + callLength }
    else
      { back with
        rep := some { r with remaining := r.remaining - 1, iteration := r.iteration + 1 }
        pattern := Vec3.add r.base (Vec3.scale (r.iteration + 1 : Nat) r.step) }

/-- The entry that a CALL pushes (R37, R41). -/
def entryOf (e : Executor) : CallEntry :=
  match e.rep with
  | none => { slot := e.slot, index := e.index + 1, offset := e.offset + callLength, savedOffset := e.pattern, rep := none }
  | some r => { slot := e.slot, index := e.index, offset := e.offset, savedOffset := r.base, rep := some r }

/-- R37: the push of a CALL and the entry to a library slot of the given length. -/
def pushCall (slot len : Nat) (e : Executor) : Executor :=
  { e with
    stack := entryOf e :: e.stack, rep := none, slot := slot, slotLen := len, index := 0, offset := 0, headerDue := true, item := none }

/-- R38: STACK_WARN at a push to the warning depth while the warning is armed. -/
def judgeWarning (a : Arm) (s : State) : State :=
  let e := (s.arm a).exec
  if e.stack.length = warnDepth s a ∧ e.warnArmed = true then
    setCause .stackWarn (s.modExec a (fun e => { e with warnArmed := false }))
  else s

/-! ### The fetch (R26 to R31) -/

/-- The header and policy checks that are due at this fetch fail (R29). -/
def headerFails (e : Executor) (p : Plan) : Bool := (e.headerDue && lengthBad e.slotLen) || (e.policyDue && policiesBad p)

/-- R27 step 5: the item at the pointer is validated and handed on. -/
def fetchItem (a : Arm) (s : State) : State :=
  let e := (s.arm a).exec
  match decodeItem s.mem e.slot e.offset (e.slotLen - e.offset) with
  | .inl f => failPlan a f s
  | .inr (i, len) =>
    if i.isMotion && !(s.arm a).scale.homed then failPlan a .notHomed s
    else (s.modExec a (fun e => { e with item := some i, itemLen := len })).setDoing a .handed

/-- R27, R28: the checks of a fetch in order. The first argument bounds the library slots whose ends are met in a row: the stack depth
and one. -/
def fetchFrom (a : Arm) : Nat → State → State
  | 0, s => s
  | n + 1, s =>
    let e := (s.arm a).exec
    match e.plan with
    | none => s
    | some p =>
      if !tagIs s (slotBase p.slot) tagTaken then endRevoked a s
      else if withdrawSet s.mem p.slot then endPlan a .withdrawn .none s
      else if !e.stack.isEmpty && !tagIs s (slotBase e.slot) tagLibrary then failPlan a .libraryGone s
      else if headerFails e p then failPlan a .badItem s
      else
        let s := s.modExec a (fun e => { e with headerDue := false, policyDue := false })
        if e.offset = e.slotLen then
          match e.stack with
          | [] => endPlan a .completed .none s
          | c :: rest => fetchFrom a n (s.modExec a (popEntry (warnDepth s a) (slotLength s.mem c.slot) c rest))
        else fetchItem a s

/-- R26: a fetch made at once, in RUNNING. -/
def fetch (a : Arm) (s : State) : State :=
  let s := s.modMot a (fun m => { m with state := .running, doing := .nothing, resume := none })
  fetchFrom a ((s.arm a).exec.stack.length + 1) s

/-- An item boundary (R26): a HOLD that waits for it takes effect; in HELD, ESTOP and FAULTED the fetch waits for the RESUME. -/
def boundary (a : Arm) (s : State) : State :=
  let m := (s.arm a).mot
  match m.state with
  | .held => s.restAt a .boundary
  | .estop => s.restAt a .boundary
  | .faulted => s.restAt a .boundary
  | _ =>
    if m.holdPending then (s.modMot a (fun m => { m with state := .held, holdPending := false })).restAt a .boundary
    else fetch a s

/-! ### The completion of an item (R26, R34, R41) -/

/-- The pointer moves past the item. -/
def pastItem (e : Executor) : Executor := { e with index := e.index + 1, offset := e.offset + e.itemLen, item := none }

/-- R41: the executor at the completion of an item, whatever kind the repeated item now is (notes/assumptions/53.md). -/
def itemDone (e : Executor) : Executor :=
  match e.rep with
  | none => countItem (pastItem e)
  | some r =>
    if r.remaining = 0 then countItem (pastItem { e with rep := none, pattern := r.base })
    else
      { e with
        item := none
        rep := some { r with remaining := r.remaining - 1, iteration := r.iteration + 1 }
        pattern := Vec3.add r.base (Vec3.scale (r.iteration + 1 : Nat) r.step) }

/-- The item in progress completes, and the executor comes to an item boundary. -/
def completeItem (a : Arm) (s : State) : State := boundary a (s.modExec a itemDone)

/-- A TOUCH, SCAN or MARK completes: its dropped count is handed on and its grant released (R122, R133, R176). -/
def completeCapture (a : Arm) (s : State) : State :=
  let s := addDropped a (s.arm a).cap.dropped s
  completeItem a (releaseGrant a (s.modCap a Capture.cleared))

/-- The item handed on for execution, if the arm's next step is its execution (notes/assumptions/13.md). -/
def handedItem (s : State) (a : Arm) : Option Item :=
  match s.doing a with
  | .handed => (s.arm a).exec.item
  | _ => none

end Sys2Proof.Machine
end

