-- ==== Sys2Proof/Machine/Segments.lean ====
section
/-! DEFINITION. The start of a segment (R53 to R55, R58, R60): soft limits, claim, probe and temperature checks, feed, drives and
profile. -/

namespace Sys2Proof.Machine

/-! ### Kinds of segment -/

/-- A HOME search. -/
def SegKind.isHome : SegKind → Bool
  | .home _ => true
  | _ => false

/-- A leg of a SCAN. -/
def SegKind.isLeg : SegKind → Bool
  | .leg _ => true
  | _ => false

/-- A pass of a TOUCH. -/
def SegKind.isPass : SegKind → Bool
  | .pass1 => true
  | .pass2 => true
  | _ => false

/-- A probing segment: a pass of a TOUCH or a leg of a SCAN (R91). -/
def SegKind.isProbing (k : SegKind) : Bool := k.isPass || k.isLeg

/-! ### Steps 1 and 2 -/

/-- A coordinate lies within the soft limits of its axis (R58). -/
def inLimits (k : AxisConst) (v : Int) : Bool := decide (k.lower ≤ v) && decide (v ≤ k.upper)

/-- The target lies within the soft limits of the arm's axes (R53 step 1). -/
def targetInLimits (s : State) (a : Arm) (p : Vec3) : Bool :=
  let k := s.inst.axes.get a
  inLimits k.x p.x && (inLimits k.y p.y && inLimits k.z p.z)

/-- Some axis of the arm is LOST (R48). -/
def anyLost (s : State) (a : Arm) : Bool := !(s.arm a).scale.signal.every (fun b => b)

/-- R53 step 1, and the refusal of a HOME with a lost scale (R48); then the zones are asked for, within the command. -/
def startSegment (a : Arm) (r : SegReq) (s : State) : State :=
  if r.kind.isHome then
    if anyLost s a then faultAt a .scaleFault (resumeOf r) (s.modScale a (fun sc => { sc with homed := false }))
    else s.modMot a (fun m => { m with state := .running, doing := .claiming r, resume := none })
  else if !targetInLimits s a r.target then faultAt a .travelLimit (resumeOf r) s
  else s.modMot a (fun m => { m with state := .running, doing := .claiming r, resume := none })

/-! ### Step 3 -/

/-- A group that a probing segment of the arm uses was EXPIRED in the last completed cycle (R124). -/
def usesExpired (s : State) (a : Arm) : Bool :=
  (groupsUsed s.thermal.published.groups a (s.maps.parts.get a).on).any (fun g => decide (g.state = .expired))

/-- R91, then R124: the fault of a probing segment's start. -/
def probingStartFault (s : State) (a : Arm) (isScan : Bool) : Option FaultCode :=
  match (s.arm a).exec.plan with
  | some p =>
    (match probingFault (s.arm a).head isScan (policyHold p.expiredProbe) with
      | some f => some f
      | none => if policyHold p.expiredTemp && usesExpired s a then some .tempExpired else none)
  | none => none

/-- The capture unit takes the context copy of a probing segment (R135). -/
def takeContext (a : Arm) (s : State) : State :=
  let c := (s.arm a).head.ctx
  s.modCap a (fun u => { u with ctx := c })

/-! ### Step 4 (R54) -/

/-- The limits that a segment's feed meets besides its request. -/
def feedLimits (s : State) (a : Arm) (r : SegReq) : List Nat :=
  let c := (s.arm a).head.ctx
  (s.inst.arms.get a).maxFeed ::
    ((if c.state = .none then [] else [c.copy.speedLimit]) ++
      (s.zones.filter (meetsZone (sweptBox s a r))).map (fun z => z.speedLimit))

/-- The effective feed (R54). -/
def effectiveFeed (s : State) (a : Arm) (r : SegReq) : Nat := (feedLimits s a r).foldl min r.feed

/-- R33: a clamped segment is counted; the counter stops at 65,535. -/
def countClamp (a : Arm) (clamped : Bool) (s : State) : State :=
  if clamped then s.modExec a (fun e => { e with feedsClamped := satAdd16 e.feedsClamped 1 }) else s

/-! ### Step 6 (R55) -/

/-- The lesser of two ratios of acceleration limit and travel; an axis that does not move (travel 0) gives none. -/
def lesserRatio (p q : Nat × Nat) : Nat × Nat :=
  if q.2 = 0 then p else if p.2 = 0 then q else if q.1 * p.2 < p.1 * q.2 then q else p

/-- R55: the profile of a straight path from its start position (notes/assumptions/20.md). -/
def profileOf (k : Axes AxisConst) (start target : Vec3) (feed : Nat) : PathProfile :=
  let d : Axes Nat := Axes.of (fun i => (target.get i - start.get i).natAbs)
  let q := lesserRatio (lesserRatio (k.x.accel, d.x) (k.y.accel, d.y)) (k.z.accel, d.z)
  let sq := d.x * d.x + d.y * d.y + d.z * d.z
  { accNum := q.1, accDen := q.2, pathSq := sq, triangle := decide (q.1 * sq < 1000 * feed * feed * q.2) }

/-- The axis that a HOME segment searches. -/
def searchAxis : List Axis → Axis
  | i :: _ => i
  | [] => .X

/-- A HOME search in flight: one axis alone moves in the negative counting direction, at its creep feed with its own acceleration limit
(R54, R55, R63). -/
def searchSegment (s : State) (a : Arm) (r : SegReq) (rest : List Axis) : Segment :=
  let i := searchAxis rest
  let k := (s.inst.axes.get a).get i
  { req := r, start := s.position a, effective := k.creep, profile := .search i (-1) k.accel, marked := false
    begun := s.now }

/-- A leg's sample timer starts with its profile unless it runs on from the leg before (R131). -/
def startSampling (a : Arm) (s : State) : State :=
  match (s.arm a).cap.item, (s.arm a).cap.sampleTimer with
  | some (.scan f), none => s.modCap a (fun c => { c with sampleTimer := some (s.timer f.period) })
  | _, _ => s

/-- R53 step 6: the profile begins and the segment is in flight. -/
def beginProfile (a : Arm) (r : SegReq) (feed : Nat) (s : State) : State :=
  match r.kind with
  | .home rest =>
    let seg := searchSegment s a r rest
    (s.modScale a (fun sc => { sc with homed := false })).modMot a (fun m =>
      { m with state := .homing, doing := .inFlight seg, stop := none, commanded := none })
  | _ =>
    let p := s.position a
    let seg : Segment :=
      { req := r, start := p, effective := feed, profile := .path (profileOf (s.inst.axes.get a) p r.target feed), marked := false
        begun := s.now }
    let s := s.modMot a (fun m => { m with state := .running, doing := .inFlight seg, stop := none, commanded := none })
    if r.kind.isLeg then startSampling a s else s

/-! ### Steps 4 to 6 -/

/-- R53 steps 5 and 6: drives that are off are enabled, all three together, with the scale position as commanded position, and their
ready reports awaited (R59, R60) (notes/assumptions/28.md). -/
def startDrives (a : Arm) (r : SegReq) (feed : Nat) (s : State) : State :=
  if drivesOn s a then beginProfile a r feed s
  else
    let t := s.timer (ms 1000)
    let p := s.position a
    (stopSampling a (s.modMot a (fun m =>
      { m with
        state := .running, drives := Axes.all3 true, commanded := some p
        doing := .driveWait r feed (Axes.all3 false) t }))).send (.enableDrives a)

/-- R53 steps 4 to 6. -/
def startFeed (a : Arm) (r : SegReq) (s : State) : State :=
  let f := effectiveFeed s a r
  startDrives a r f (countClamp a (decide (f < r.feed)) s)

/-- R53 step 3 for a probing segment, after the refresh: it waits for the shadow to end, or is checked and goes on (R91, R99, R124). -/
def startProbing (a : Arm) (r : SegReq) (s : State) : State :=
  if (s.arm a).head.shadow.isSome then (stopSampling a s).setDoing a (.shadowWait r)
  else
    match probingStartFault s a r.kind.isLeg with
    | some f => faultAt a f (resumeOf r) s
    | none => startFeed a r (takeContext a (selectOrient a s))

/-- The fault of the refresh; a change move raises none (R90). -/
def refreshFaultOf (s : State) (a : Arm) (k : SegKind) : Option FaultCode :=
  match k with
  | .changeMove => none
  | _ => refreshFault s a

/-- R53 steps 3 to 6: the start goes on after the zones are granted. -/
def continueStart (a : Arm) (r : SegReq) (s : State) : State :=
  if r.kind.isHome then startDrives a r 0 s
  else
    match refreshFaultOf s a r.kind with
    | some f => faultAt a f (resumeOf r) s
    | none =>
      let s := refresh a s
      if r.kind.isProbing then startProbing a r s else startFeed a r s

end Sys2Proof.Machine
end

