-- ==== Sys2Proof/Machine/ChangeSteps.lean ====
section
/-! DEFINITION. The change sequencer (chapter 6): the steps of a DROP and a PICK, each begun with its command and its timer, the decision
of the next phase, and the restart of a step at a RESUME. -/

namespace Sys2Proof.Machine

/-- The change record of an arm, which holds one whenever its step runs. -/
def State.change (s : State) (a : Arm) : Change :=
  (s.arm a).change.getD { target := 0, step := .claim, port := 0, probe := 0, attempts := 0, opened := [], confirm := none }

/-- The change record changed. -/
def State.modChange (s : State) (a : Arm) (f : Change → Change) : State := s.setArm a { s.arm a with change := (s.arm a).change.map f }

/-- The change record stands at a step. -/
def State.atStep (s : State) (a : Arm) (st : ChangeStep) : State := s.modChange a (fun c => { c with step := st })

/-- A step that is not a move awaits its confirmation for a time in ms. -/
def awaitStep (a : Arm) (time : Nat) (s : State) : State :=
  let t := s.timer (ms time)
  s.modMot a (fun m => { m with state := .running, doing := .changing t, resume := none })

/-! ### Moves (R109) -/

/-- A point of the rack in the arm's machine coordinates (R109). -/
def rackPoint (s : State) (a : Arm) (p : Vec3) : Vec3 := fromFrame (s.inst.frame.get a) p

/-- A change move to the approach point of the phase port, or to its dock point. -/
def changeReq (s : State) (a : Arm) (dock : Bool) : SegReq :=
  let p := s.rack.port (s.change a).port
  let approach := rackPoint s a p.approach
  let inside := rackPoint s a p.dock
  { kind := .changeMove, target := if dock then inside else approach, feed := (s.inst.arms.get a).maxFeed, sweep := [approach, inside] }

/-- A step that moves the arm to the approach point. -/
def approachStep (a : Arm) (st : ChangeStep) (s : State) : State :=
  let s := s.atStep a st
  startSegment a (changeReq s a false) s

/-- A step that moves the arm to the dock point. -/
def dockStep (a : Arm) (st : ChangeStep) (s : State) : State :=
  let s := s.atStep a st
  startSegment a (changeReq s a true) s

/-! ### Lids (R110) -/

/-- A lid step: the open command for the phase port, remembered as opened by the change. -/
def openStep (a : Arm) (st : ChangeStep) (s : State) : State :=
  let n := (s.change a).port
  awaitStep a 2000 (((s.atStep a st).modChange a (fun c => { c with opened := if c.opened.contains n then c.opened else n :: c.opened })).send
    (.openLid n))

/-- A lid step: the close command for the phase port. -/
def closeStep (a : Arm) (st : ChangeStep) (s : State) : State :=
  awaitStep a 2000 ((s.atStep a st).send (.closeLid (s.change a).port))

/-! ### DROP (R111, R112) -/

/-- D7 confirmed: q is in port n in one operation, in which the other arm's head loses a q that its plan has declared there meanwhile (R87, R112,
notes/assumptions/30.md). It is UNIDENTIFIED then, with a context of NONE (R88). D8 begins with its move. -/
def confirmDrop (a : Arm) (s : State) : State :=
  let q := (s.change a).probe
  approachStep a .d8move (forgetProbe a.other q (moveProbe q (.port (s.change a).port) s))

/-- D7: the port must read OCCUPIED, at once or within 500 ms (notes/assumptions/29.md). -/
def stepD7 (a : Arm) (s : State) : State :=
  let s := s.atStep a .d7
  if (s.rack.port (s.change a).port).occ = .occupied then confirmDrop a s else awaitStep a 500 s

/-- D5: the release command. -/
def stepD5 (a : Arm) (s : State) : State := awaitStep a 500 ((s.atStep a .d5).send (.release a))

/-- D4: the supply is switched off and the context becomes UNPOWERED; D5 follows. -/
def stepD4 (a : Arm) (s : State) : State := stepD5 a (unpower a (supplyOff a s))

/-- D6: uncoupled, in one operation; D7 follows. -/
def stepD6 (a : Arm) (s : State) : State :=
  stepD7 a (clearContext a (setOccupancy a .empty (moveProbe (s.change a).probe .unknown s)))

/-- The check at the completion of D1: the port records no probe and reads EMPTY (R111). -/
def dropPortReady (p : Port) : Bool := p.probe.isNone && decide (p.occ = .empty)

/-- The D1 move has completed. -/
def afterD1 (a : Arm) (s : State) : State :=
  if dropPortReady (s.rack.port (s.change a).port) then openStep a .d2 s else faultAt a .portNotEmpty (.changeStep .d1) s

/-! ### PICK (R113, R114) -/

/-- The lock command, for the attempt of the given number. -/
def lockStep (a : Arm) (attempt : Nat) (s : State) : State :=
  awaitStep a 500 (((s.atStep a .p3lock).modChange a (fun c => { c with attempts := attempt })).send (.lock a))

/-- P5: the supply is switched on; its current is compared 20 ms later. -/
def stepP5 (a : Arm) (s : State) : State := awaitStep a 20 (supplyOn a (s.atStep a .p5))

/-- P4: coupled, in one operation, with the context UNPOWERED; P5 follows. -/
def stepP4 (a : Arm) (s : State) : State :=
  let p := (s.change a).probe
  let s := setOccupancy a (.probe p) (moveProbe p (.arm a) s)
  let c : Context := { index := p, copy := s.probe p, state := .unpowered, selected := none }
  stepP5 a (s.modHead a (fun h => { h with ctx := c }))

/-- P6: the identity request is sent, with its 100 ms (R114). -/
def askIdentity (a : Arm) (s : State) : State := awaitStep a 100 ((s.atStep a .p6).send (.identityRequest a))

/-- P5 has passed: the context becomes READY, and P6 follows (R114). -/
def stepP6 (a : Arm) (s : State) : State :=
  askIdentity a (s.modHead a (fun h => { h with supplyChecked := true, ctx := { h.ctx with state := .ready } }))

/-- The check at the completion of P1: the port records p and reads OCCUPIED (R113). -/
def pickPortReady (p : Nat) (q : Port) : Bool := decide (q.probe = some p) && decide (q.occ = .occupied)

/-- The P1 move has completed. -/
def afterP1 (a : Arm) (s : State) : State :=
  if pickPortReady (s.change a).probe (s.rack.port (s.change a).port) then openStep a .p2open s
  else faultAt a .portEmpty (.changeStep .p1) s

/-- P7 begins with its move. A RESUME from PICK_UNCONFIRMED gives the 500 ms it has started; else they start at the move's end (R114,
R115). -/
def moveP7 (a : Arm) (confirm : Option Timer) (s : State) : State :=
  approachStep a .p7move (s.modChange a (fun c => { c with confirm := confirm }))

/-- The P7 move has completed: the port must read EMPTY, at once or within 500 ms (notes/assumptions/29.md). -/
def afterP7Move (a : Arm) (s : State) : State :=
  if (s.rack.port (s.change a).port).occ = .empty then closeStep a .p8 s
  else
    let t := (s.change a).confirm.getD (s.timer (ms 500))
    (s.atStep a .p7confirm).modMot a (fun m => { m with state := .running, doing := .changing t, resume := none })

/-- The end of a phase: the next phase is decided within the command (R108). -/
def phaseEnds (a : Arm) (s : State) : State := s.setDoing a .rackHeld

/-- P8 confirmed: the mount is made, with the supply on or off (notes/assumptions/58.md), or its fault raised with P5 as the step to
retry (R114, R115). -/
def mountPicked (a : Arm) (s : State) : State :=
  let p := (s.change a).probe
  match mountCheck s a p with
  | some f => faultAt a f (.changeStep .p5) (mountFails a s)
  | none => phaseEnds a (mount a p s)

/-! ### The order of steps -/

/-- The move of a change step has completed. -/
def moveStepDone (a : Arm) (s : State) : State :=
  match (s.change a).step with
  | .d1 => afterD1 a s
  | .d3 => stepD4 a s
  | .d8move => closeStep a .d8close s
  | .p1 => afterP1 a s
  | .p2dock => lockStep a 1 s
  | .p7move => afterP7Move a s
  | _ => s.setDoing a .nothing

/-- A lid step is confirmed by the lid's commanded state (R110). -/
def lidStepDone (a : Arm) (s : State) : State :=
  match (s.change a).step with
  | .d2 => dockStep a .d3 s
  | .d8close => phaseEnds a s
  | .p2open => dockStep a .p2dock s
  | .p8 => mountPicked a s
  | _ => s

/-- The lid state that confirms a step; none for a step that is not a lid step. -/
def lidWanted : ChangeStep → Option Lid
  | .d2 => some .opened
  | .p2open => some .opened
  | .d8close => some .closed
  | .p8 => some .closed
  | _ => none

/-- Where a RESUME from a lid fault begins (R115). -/
def lidRetry : ChangeStep → ChangeStep
  | .d2 => .d1
  | .p2open => .p1
  | st => st

/-! ### Phases (R108) and the restart of a step (R115 to R117) -/

/-- A phase begins at its first step: the home port of the phase probe becomes the phase port. -/
def beginPhase (a : Arm) (probe : Nat) (st : ChangeStep) (s : State) : State :=
  let n := (s.probe probe).homePort
  approachStep a st (s.modChange a (fun c => { c with port := n, probe := probe, attempts := 0 }))

/-- The change completes: the rack is released and the CHANGE item completes (R114). -/
def changeDone (a : Arm) (s : State) : State := completeItem a (releaseRack (s.setChange a none))

/-- R108: the next phase from the head occupancy; an UNIDENTIFIED head ends the plan (notes/assumptions/62.md). -/
def decidePhase (a : Arm) (s : State) : State :=
  let p := (s.change a).target
  match (s.arm a).head.occ with
  | .probe q => if q = p then changeDone a s else beginPhase a q .d1 s
  | .empty => if p = 0 then changeDone a s else beginPhase a p .p1 s
  | .unidentified => failPlan a .headUnidentified s

/-- The target of the CHANGE item in execution. -/
def changeTarget (e : Executor) : Nat :=
  match e.item with
  | some (.change p) => p
  | _ => 0

/-- The arm holds the rack: its change record is made at the grant, and the next phase is decided. -/
def holdRack (a : Arm) (s : State) : State :=
  let c : Change := { target := changeTarget (s.arm a).exec, step := .claim, port := 0, probe := 0, attempts := 0, opened := [],
                      confirm := none }
  decidePhase a (if (s.arm a).change.isSome then s else s.setChange a (some c))

/-- R105: the rack claim. -/
def claimRack (a : Arm) (s : State) : State :=
  if s.rack.holder = some a.other then
    let t := s.timer (sec s.inst.rackWait)
    setCause .armWait ((setRack { s.rack with waiter := some a } s).modMot a (fun m =>
      { m with state := .rackWait, doing := .rackWait t, resume := none }))
  else (setRack { s.rack with holder := some a } s).modMot a (fun m => { m with state := .running, doing := .rackHeld, resume := none })

/-- A RESUME restarts the step of a change from its beginning (R115 to R117). D1 and P1 read the phase port again; P6 asks for the identity
again and switches no supply on, its context staying UNPOWERED (R101, notes/assumptions/12.md); a
move that was in flight is started again as a segment and does not come here (notes/assumptions/72.md). -/
def restartChange (a : Arm) (st : ChangeStep) (s : State) : State :=
  let running := s.modMot a (fun m => { m with state := .running, resume := none })
  match st with
  | .claim => running.setDoing a .rackHeld
  | .d1 => running.setDoing a .rackHeld
  | .p1 => running.setDoing a .rackHeld
  | .d2 => openStep a .d2 s
  | .d3 => dockStep a .d3 s
  | .d5 => stepD5 a s
  | .d7 => stepD7 a s
  | .d8move => approachStep a .d8move s
  | .d8close => closeStep a .d8close s
  | .p2open => openStep a .p2open s
  | .p2dock => dockStep a .p2dock s
  | .p3lock => lockStep a 1 s
  | .p3unlock => lockStep a 1 s
  | .p5 => stepP5 a s
  | .p6 => askIdentity a s
  | .p7move => moveP7 a none s
  | .p7confirm => moveP7 a (some (s.timer (ms 500))) s
  | .p8 => closeStep a .p8 s
  | .mismatch => failPlan a .headUnidentified running

end Sys2Proof.Machine
end

