-- ==== Sys2Proof/Machine/CaptureUnit.lean ====
section
/-! DEFINITION. The capture unit (chapter 7): room requests, the passes of a TOUCH, the legs and samples of a SCAN, the hand-on of points,
and what follows the completion of a segment. -/

namespace Sys2Proof.Machine

/-! ### Room (R123) -/

/-- A MARK may ask for its room in ESTOP, HELD or FAULTED, when the event came between its fetch and its step (R68, R101). -/
def ArmState.stands : ArmState → Bool
  | .held => true
  | .faulted => true
  | .estop => true
  | _ => false

/-- R123: room is asked for; granted, the item goes on within the command, else the arm enters ROOM_WAIT. An arm in ESTOP, HELD or FAULTED
keeps its state, and refused room is asked for again at its RESUME (R68, notes/assumptions/13.md). -/
def requestRoom (a : Arm) (n : Nat) (s : State) : State :=
  match (s.arm a).exec.plan with
  | some p =>
    let r := judgeRoom a p n s
    let stands := (s.arm a).mot.state.stands
    if r.1 then r.2.modMot a (fun m => { m with state := if stands then m.state else .running, doing := .roomHeld, resume := none })
    else if stands then r.2.restAt a .room
    else
      let t := r.2.now
      setCause .armWait ((r.2.modWr a (fun w => { w with waiting := some { n := n, time := t } })).modMot a (fun m =>
        { m with state := .roomWait, doing := .roomWait, resume := none }))
  | none => s

/-- The records an item asks room for (R123). -/
def roomOf : Option Item → Nat
  | some (.scan f) => f.maxPoints
  | _ => 1

/-- The points of a SCAN: each waypoint with the pattern offset added (R39). -/
def shiftPoints (off : Vec3) (l : List Vec3) : List Vec3 := l.map (fun p => Vec3.add p off)

/-- The item record of R122: the item's fields with the pattern offset added to E or to the waypoints. -/
def captureItemOf (i : Item) (off : Vec3) : Option CaptureItem :=
  match i with
  | .touch f => some (.touch { f with target := Vec3.add f.target off })
  | .scan f => some (.scan { f with waypoints := shiftPoints off f.waypoints })
  | _ => none

/-- R122: the capture unit at the fetch of a TOUCH or SCAN. -/
def takeItem (a : Arm) (i : Item) (s : State) : State :=
  let off := (s.arm a).exec.pattern
  s.modCap a (fun c => { c.cleared with item := captureItemOf i off, phase := .room, attempts := 1 })

/-! ### Segments of a TOUCH (R75, R125 to R127) -/

/-- The TOUCH in progress; its fields are 0 where there is none. -/
def touchFields (c : Capture) : TouchFields :=
  match c.item with
  | some (.touch f) => f
  | _ => { target := Vec3.zero, touchFeed := 0, measureFeed := 0, retractFeed := 0, backoff := 0, retries := 0 }

/-- A segment of the TOUCH; its swept box covers S and E (R75). -/
def touchReq (c : Capture) (k : SegKind) (target : Vec3) (feed : Nat) : SegReq :=
  { kind := k, target := target, feed := feed, sweep := [c.startPos, (touchFields c).target] }

/-- A pass toward E (R125). -/
def passReq (c : Capture) (k : SegKind) : SegReq :=
  touchReq c k (touchFields c).target (if k = .pass2 then (touchFields c).measureFeed else (touchFields c).touchFeed)

/-- A retract to S (R126, R127). -/
def retractReq (c : Capture) (k : SegKind) : SegReq := touchReq c k c.startPos (touchFields c).retractFeed

/-- One component of the back-off point, held between H and S (R125). -/
def backoffComp (b : Nat) (s e h : Int) : Int := holdWithin (min h s) (max h s) (h + roundDiv ((s - e) * b) 1024)

/-- The back-off point B (R125). -/
def backoffPoint (c : Capture) (h : Vec3) : Vec3 :=
  let f := touchFields c
  ⟨backoffComp f.backoff c.startPos.x f.target.x h.x, backoffComp f.backoff c.startPos.y f.target.y h.y,
    backoffComp f.backoff c.startPos.z f.target.z h.z⟩

/-- The back-off segment (R125). -/
def backoffReq (c : Capture) (h : Vec3) : SegReq := touchReq c .backoff (backoffPoint c h) (touchFields c).retractFeed

/-- The phase of the capture unit. -/
def setPhase (a : Arm) (p : CapturePhase) (s : State) : State := s.modCap a (fun c => { c with phase := p })

/-- A pass begins, or begins again at the same attempt. -/
def startPass1 (a : Arm) (s : State) : State :=
  let s := setPhase a .pass1 s
  startSegment a (passReq (s.arm a).cap .pass1) s

/-- PASS2 begins (R125). -/
def startPass2 (a : Arm) (s : State) : State :=
  let s := setPhase a .pass2 s
  startSegment a (passReq (s.arm a).cap .pass2) s

/-- The hit is the point: it is in PASS2, or the TOUCH has a single pass (R126). -/
def isPointPass (c : Capture) (k : SegKind) : Bool := decide (k = .pass2) || decide ((touchFields c).measureFeed = 0)

/-- The latch is consumed (R121). -/
def emptyLatch (a : Arm) (s : State) : State := s.modScale a (fun sc => { sc with latch := none })

/-- A point is handed on, compensated and placed (R126, R135, R174). -/
def handOnPoint (a : Arm) (p : PointIn) (s : State) : State := placeRecord a (pointRecord s a p) s

/-- R125, R126: a hit is decided with the latch it consumes. The point is handed on, or H is taken; gives the segment that follows. -/
def decideHit (a : Arm) (k : SegKind) (l : Latch) (s : State) : SegReq × State :=
  let s := emptyLatch a s
  let c := (s.arm a).cap
  if isPointPass c k then
    let p : PointIn :=
      { kind := .touch, counts := l.counts, time := l.time, deflection := Vec3.zero, noDeflection := false, offWindow := false,
        attempts := c.attempts, ctx := c.ctx }
    let s := handOnPoint a p s
    (retractReq c .retractEnd, s.modCap a (fun c => { c with phase := .retractEnd, pointTaken := true }))
  else
    let h := scalePositions (s.inst.axes.get a) l.counts (s.arm a).scale.cref
    (backoffReq c h, s.modCap a (fun c => { c with phase := .backoff, hit := some h }))

/-- R127: a missed pass retracts for a retry, or at the last attempt for good. -/
def passMissed (a : Arm) (s : State) : State :=
  let c := (s.arm a).cap
  if c.attempts < 1 + (touchFields c).retries then startSegment a (retractReq c .retractRetry) (setPhase a .retractRetry s)
  else startSegment a (retractReq c .retractEnd) (setPhase a .retractEnd s)

/-- R127: the retract for a retry has completed. -/
def retryPass (a : Arm) (s : State) : State :=
  startPass1 a (s.modCap a (fun c => { c with attempts := c.attempts + 1, hit := none }))

/-- Miss policy code 2 is HOLD (section 11.4). -/
def missHold (s : State) (a : Arm) : Bool :=
  match (s.arm a).exec.plan with
  | some p => policyHold p.miss
  | none => false

/-- R126, R127: the last retract has completed: the TOUCH completes, or its miss is decided by the plan's policy. -/
def touchEnds (a : Arm) (s : State) : State :=
  let c := (s.arm a).cap
  if c.pointTaken then completeCapture a s
  else if missHold s a then faultAt a .touchMissed .touchAgain s
  else completeCapture a (placeRecord a (missRecord s a c.attempts) s)

/-- R127: a RESUME from TOUCH_MISSED runs the whole TOUCH again, with S and the room kept. -/
def touchAgain (a : Arm) (s : State) : State := startPass1 a (s.modCap a (fun c => { c with attempts := 1, hit := none, pointTaken := false }))

/-! ### Legs of a SCAN (R131) -/

/-- The SCAN in progress; its fields are 0 where there is none. -/
def scanFields (c : Capture) : ScanFields :=
  match c.item with
  | some (.scan f) => f
  | _ => { feed := 0, period := 0, lo := 0, hi := 0, maxPoints := 0, waypoints := [] }

/-- Leg k, from 1 on; its swept box covers every waypoint (R75, R131). -/
def legReq (c : Capture) (k : Nat) : SegReq :=
  let f := scanFields c
  { kind := .leg k, target := f.waypoints.getD (k - 1) Vec3.zero, feed := f.feed, sweep := f.waypoints }

/-- A leg begins. -/
def startLeg (a : Arm) (k : Nat) (s : State) : State := startSegment a (legReq (s.arm a).cap k) (setPhase a (.leg k) s)

/-- R131: leg k has completed. -/
def legDone (a : Arm) (k : Nat) (r : SegReq) (s : State) : State :=
  let c := (s.arm a).cap
  if k < (scanFields c).waypoints.length then startLeg a (k + 1) s
  else
    let s := stopSampling a s
    if c.sample.isSome then s.setDoing a (.awaitSample r) else completeCapture a s

/-! ### Granted room -/

/-- The item goes on with its room (R123, R125, R131, R178) (notes/assumptions/42.md). -/
def roomGranted (a : Arm) (s : State) : State :=
  match (s.arm a).exec.item with
  | some (.touch _) =>
    let p := s.position a
    startPass1 a (s.modCap a (fun c => { c with startPos := p }))
  | some (.scan _) =>
    let p := s.position a
    startLeg a 1 (s.modCap a (fun c => { c with startPos := p }))
  | some (.mark tag) => completeCapture a (placeRecord a (markRecord s a tag) s)
  | _ => s.setDoing a .nothing

/-! ### Samples (R132, R133) -/

/-- Largest of the absolute values of the components (R133). -/
def maxNorm (d : Vec3) : Nat := max (max d.x.natAbs d.y.natAbs) d.z.natAbs

/-- Deflection outside the window lo..hi, given in µm (R133). -/
def outsideWindow (f : ScanFields) (d : Vec3) : Bool := decide (maxNorm d < f.lo * 1000) || decide (f.hi * 1000 < maxNorm d)

/-- The deflection exceeds the overtravel limit of the sample's context copy (R133, R135). -/
def overtravels (x : Sample) (d : Vec3) : Bool := decide (x.ctx.copy.overtravel * 1000 < maxNorm d)

/-- R133: the completed sample is judged; `d` is none for a sample without a reply. -/
def judgeSample (a : Arm) (x : Sample) (d : Option Vec3) (s : State) : State :=
  let c := (s.arm a).cap
  let f := scanFields c
  let v := d.getD Vec3.zero
  if d.isSome && overtravels x v then raiseFault a .deflectionLimit s
  else if f.maxPoints ≤ c.points then s.modCap a (fun c => { c with dropped := c.dropped + 1 })
  else
    let p : PointIn :=
      { kind := .scan, counts := x.counts, time := x.time, deflection := v, noDeflection := d.isNone,
        offWindow := d.isSome && outsideWindow f v, attempts := 1, ctx := x.ctx }
    handOnPoint a p (s.modCap a (fun c => { c with points := c.points + 1 }))

/-- The sample in flight completes and is judged (R132). -/
def sampleDone (a : Arm) (d : Option Vec3) (s : State) : State :=
  match (s.arm a).cap.sample with
  | some x => judgeSample a x d (s.modCap a (fun c => { c with sample := none }))
  | none => s

/-! ### What follows a completed segment (R56) -/

/-- The item or phase that owns a segment is told of its completion. -/
def segmentDone (a : Arm) (r : SegReq) (s : State) : State :=
  match r.kind with
  | .move => completeItem a s
  | .pass1 => passMissed a s
  | .pass2 => passMissed a s
  | .backoff => startPass2 a s
  | .retractRetry => retryPass a s
  | .retractEnd => touchEnds a s
  | .leg k => legDone a k r s
  | .changeMove => moveStepDone a s
  | .home _ => s

/-- The HOME segment is complete: the homed flag is set, the position shown, the zones kept that the envelope meets (R63, R84). -/
def homeDone (a : Arm) (s : State) : State :=
  let s := (s.modScale a (fun sc => { sc with homed := true })).modMot a (fun m => { m with doing := .nothing })
  completeItem a (releaseByEnvelope a (s.showPosition a))

end Sys2Proof.Machine
end

