-- ==== Sys2Proof/Machine/Rest.lean ====
section
/-! DEFINITION. An arm comes to rest (R56, R57, R64, R66, R68, R69, R125, R129, R130), and the arm's own judgement of HOLD, RESUME, ABORT,
STOP and the emergency stop. -/

namespace Sys2Proof.Machine

/-! ### The end of a stopped plan (R66, R72, R134) -/

/-- R69: the arm leaves ESTOP for the first state of the list that applies (notes/assumptions/25.md). -/
def leaveEstop (a : Arm) (s : State) : State :=
  if s.hasPlan a then
    s.modMot a (fun m => { m with state := if m.estopFaulted then .faulted else .held, estopFaulted := false })
  else idleOrUnhomed a (s.modMot a (fun m => { m with estopFaulted := false }))

/-- The plan of a stationary arm ends. ABORTED or STOPPED, its zones are released by the envelope rule; an arm in ESTOP whose input has
been released leaves it (R66, R69, R72, R83). -/
def finishEnd (a : Arm) (o : PlanOutcome) (f : FaultCode) (s : State) : State :=
  let s := endPlan a o f s
  let s := if o = .withdrawn then s else releaseByEnvelope a s
  if (s.arm a).mot.state = .estop ∧ s.estop = false then leaveEstop a s else s

/-- The state of an arm whose wait has ended while its plan's end still awaits a sample: no wait state any more (R82). -/
def ArmState.afterWait : ArmState → ArmState
  | .zoneWait => .running
  | .rackWait => .running
  | .roomWait => .running
  | st => st

/-- The end waits for a sample in flight (R134), and is made otherwise (notes/assumptions/46.md). -/
def endOrWait (a : Arm) (o : PlanOutcome) (f : FaultCode) (s : State) : State :=
  if (s.arm a).cap.sample.isSome then s.modMot a (fun m => { m with state := m.state.afterWait, doing := .ending o f }) else finishEnd a o f s

/-- After a sample has completed, what waited for it goes on: the end of a SCAN item, or of the plan (R131, R134). -/
def afterSample (a : Arm) (s : State) : State :=
  match s.doing a with
  | .awaitSample _ => completeCapture a s
  | .ending o f => finishEnd a o f s
  | _ => s

/-! ### At rest -/

/-- The hit of a pass that ends at rest: decided, unless an ABORT or STOP ends the plan and the hit is not of the point pass (R129,
R130) or a SOFT_RESET discards it (R121). Gives the segment that follows, if the pass was decided. -/
def restHit (a : Arm) (seg : Segment) (st : Stop) (s : State) : Option SegReq × State :=
  match (s.arm a).scale.latch with
  | some l =>
    if !st.reset && seg.req.kind.isPass && (st.ending.isNone || isPointPass (s.arm a).cap seg.req.kind) then
      let r := decideHit a seg.req.kind l s
      (some r.1, r.2)
    else (none, emptyLatch a s)
  | none => (none, s)

/-- The resume point of a segment stopped in flight: a HOME axis whose mark has been reported is done (R63) (notes/assumptions/27.md). The
move of a change step is that move alone, to the point it had (notes/assumptions/72.md). -/
def restPoint (seg : Segment) (next : Option SegReq) : ResumePoint :=
  match next, seg.req.kind with
  | some r, _ => .segment r
  | none, .home rest => .home (if seg.marked then rest.drop 1 else rest)
  | none, _ => .segment seg.req

/-- The drives at the end of a stop (R59, R60, R68). -/
def restDrives (a : Arm) (st : Stop) (s : State) : State :=
  if st.drivesOff || (st.fault.any switchesOff || decide ((s.arm a).mot.state = .estop)) then drivesOff a s else s

/-- The arm is stationary and stays so, with a resume point. -/
def standAt (a : Arm) (r : ResumePoint) (s : State) : State :=
  s.modMot a (fun m => { m with doing := .nothing, stop := none, resume := some r })

/-- R68, R69: the arm has come to rest in ESTOP; a fault it was stopping for is taken now, SCALE_FAULT alone leading to FAULTED at the
release, and a release that came before takes effect (notes/assumptions/25.md). -/
def restInEstop (a : Arm) (st : Stop) (r : ResumePoint) (s : State) : State :=
  let s := standAt a r s
  let s := match st.fault with
    | some f => (recordFault a f s).modMot a (fun m => { m with estopFaulted := m.estopFaulted || decide (f = .scaleFault) })
    | none => s
  if s.estop then s else leaveEstop a s

/-- What the arm does once it stands: the reset waits, the plan ends, ESTOP, FAULTED, HELD, or the next phase of the TOUCH. -/
def restNext (a : Arm) (seg : Segment) (st : Stop) (next : Option SegReq) (s : State) : State :=
  let r := restPoint seg next
  if st.reset then standAt a r s
  else
    match st.ending with
    | some o => endOrWait a o (st.fault.getD .none) (standAt a r s)
    | none =>
      if (s.arm a).mot.state = .estop then restInEstop a st r s
      else
        match st.fault with
        | some f => faultAt a f r s
        | none =>
          if st.hold then (standAt a r s).setArmState a .held
          else
            match next with
            | some q => startSegment a q (standAt a r s)
            | none => standAt a r s

/-- R56: a stopping arm comes to rest. -/
def restArm (a : Arm) (s : State) : State :=
  match s.doing a, (s.arm a).mot.stop with
  | .inFlight seg, some st =>
    let h := restHit a seg st (restDrives a st (s.showPosition a))
    restNext a seg st h.1 h.2
  | _, _ => s

/-! ### HOLD (R64) -/

/-- A HOLD that reaches an arm during a stop: taken with a hit's stop, dropped with a fault's, ignored otherwise (R57, R64, R129)
(notes/assumptions/24.md). -/
def holdStopping (a : Arm) (st : Stop) (s : State) : Option State :=
  if st.hold || st.ending.isSome then none
  else if st.fault.isSome then some s
  else some (stopFor a (fun st => { st with hold := true }) s)

/-- The arm waits for its item boundary to be HELD (R64). -/
def holdLater (a : Arm) (s : State) : State := s.modMot a (fun m => { m with holdPending := true })

/-- The activity in progress is abandoned and the arm is HELD at once (R64, R117, R123). A HOLD that already waits for the boundary of a
MARK, which now waits for room, goes on waiting for it (notes/assumptions/70.md). -/
def holdNow (a : Arm) (s : State) : State := (abandon a false s).setArmState a .held

/-- A HOLD that reaches a RUNNING or waiting arm, by what it does. -/
def holdRunning (a : Arm) (s : State) : Option State :=
  match s.doing a with
  | .inFlight _ =>
    (match (s.arm a).mot.stop with
      | some st => holdStopping a st s
      | none => some (stopFor a (fun st => { st with hold := true }) s))
  | .handed => if (s.arm a).exec.item.any (fun i => i.heldAtOnce) then some (holdNow a s) else some (holdLater a s)
  | .indexing _ => some (holdLater a s)
  | .locating _ _ => some (holdLater a s)
  | .ending _ _ => none
  | _ => some (holdNow a s)

/-- R64: HOLD judged by one arm; none when it is ignored. -/
def holdArm (a : Arm) (s : State) : Option State :=
  if !s.hasPlan a then none
  else
    match (s.arm a).mot.state with
    | .waking => some (holdLater a s)
    | .running => holdRunning a s
    | .homing => holdRunning a s
    | .zoneWait => holdRunning a s
    | .rackWait => holdRunning a s
    | .roomWait => holdRunning a s
    | .unhomed => none
    | .idle => none
    | .held => none
    | .faulted => none
    | .standby => none
    | .estop => none

/-! ### RESUME (R65) -/

/-- A segment is started again, a change move with a new confirmation to follow it (R65, R117). -/
def startAgain (a : Arm) (q : SegReq) (s : State) : State :=
  startSegment a q (match q.kind with
    | .changeMove => s.modChange a (fun c => { c with confirm := none })
    | _ => s)

/-- The resume point is carried out (section 3.6.1). -/
def carryOut (a : Arm) (r : ResumePoint) (s : State) : State :=
  let s := s.modMot a (fun m => { m with state := .running, resume := none })
  match r with
  | .segment q => startAgain a q s
  | .dwell left => s.setDoing a (.dwelling (s.timer left))
  | .home [] => homeDone a s
  | .home (i :: rest) => startSegment a { kind := .home (i :: rest), target := Vec3.zero, feed := 0, sweep := [] } s
  | .zones q => startAgain a q s
  | .rack => s.setDoing a .rackAsk
  | .room => requestRoom a (roomOf (s.arm a).exec.item) s
  | .changeStep st => restartChange a st s
  | .item => s.setDoing a .handed
  | .touchAgain => touchAgain a s
  | .boundary => fetch a s

/-- The resume point of a HELD or FAULTED arm is carried out; an item that goes on by itself (R95) is left to do so (notes/assumptions/45.md).
The arm is RUNNING first (R65), so its section is rewritten also where it is FAULTED or HELD again within the command (R18). -/
def resumeNow (a : Arm) (s : State) : State :=
  match (s.arm a).mot.resume with
  | some r => carryOut a r (report (armShown a) s)
  | none => (report (armShown a) s).setArmState a .running

/-- R65: RESUME judged by one arm; none when it is ignored. An arm whose plan's end has been decided and awaits a sample has no plan to go on
with (R46, R134, notes/assumptions/46.md). -/
def resumeArm (a : Arm) (s : State) : Option State :=
  match s.doing a, (s.arm a).mot.state with
  | .ending _ _, _ => none
  | _, .held => some (resumeNow a s)
  | _, .faulted => if (s.arm a).mot.lastFault = .scaleFault then none else some (resumeNow a s)
  | _, _ => none

/-! ### ABORT and STOP (R66, R72, R118) -/

/-- The runtime fault that the outcome carries: the arm's last one if it is FAULTED, or was at the E-stop (section 2.8) (notes/assumptions/26.md). -/
def outcomeFault (m : Motion) : FaultCode := if m.state = .faulted ∨ m.estopFaulted = true then m.lastFault else .none

/-- A stationary arm's plan is ended: its coupling answered, its activity abandoned, its change and its plan ended. -/
def endStationary (a : Arm) (o : PlanOutcome) (s : State) : State :=
  let f := outcomeFault (s.arm a).mot
  endOrWait a o f (abandon a false (answerCoupling a s))

/-- R66, R72: the end of an arm's plan by ABORT or STOP; none when the arm has no plan or its end is already under way. An arm
still stopping for a fault ends with that fault (notes/assumptions/55.md). -/
def endArm (a : Arm) (o : PlanOutcome) (s : State) : Option State :=
  if !s.hasPlan a then none
  else
    match s.doing a with
    | .inFlight _ =>
      if ((s.arm a).mot.stop.getD Stop.plain).ending.isSome then none
      else some (stopFor a (fun st => { st with hold := false, ending := some o }) s)
    | .ending _ _ => none
    | _ => some (endStationary a o s)

/-! ### The emergency stop (R68) -/

/-- What goes on through an emergency stop: the supply and identity steps of a SET_LOCATION (R95), a non-motion item that has been fetched,
which its own step still completes (R68), and an end of the plan that awaits a sample (R134). -/
def goesOn (s : State) (a : Arm) : Bool :=
  match s.doing a with
  | .handed => (s.arm a).exec.item.any Item.runsOut
  | .locating _ _ => true
  | .ending _ _ => true
  | _ => false

/-- R68: the assertion reaches an arm; one already in ESTOP stays there. A rack wait ends as a wait is withdrawn (R107,
notes/assumptions/50.md); a HOLD that waits for the end of an item or of the wake is dropped (notes/assumptions/71.md). -/
def estopArm (a : Arm) (s : State) : State :=
  let m := (s.arm a).mot
  if m.state = .estop then s
  else
    let faulted := decide (m.state = .faulted)
    let s := leaveRest a s
    let enter (s : State) : State :=
      s.modMot a (fun m => { m with state := .estop, wakeTimer := none, holdPending := false, estopFaulted := faulted })
    match m.doing with
    | .inFlight _ => enter (stopFor a (fun st => { st with hold := false, drivesOff := true }) s)
    | _ => enter (drivesOff a (if s.hasPlan a && !goesOn s a then abandon a false s else s))

/-- R69: the release reaches an arm; one that is still stopping, or whose plan's end is under way, leaves ESTOP later. -/
def releaseArm (a : Arm) (s : State) : State :=
  if (s.arm a).mot.state = .estop then
    match s.doing a with
    | .inFlight _ => s
    | .ending _ _ => s
    | _ => leaveEstop a s
  else s

/-! ### A lost scale (R48) -/

/-- R48: the report of a lost scale reaches an arm, by its state. Where its plan's end awaits a sample, the outcome of an ABORT or STOP takes the
fault (R67), and that of a withdrawal has none (R43); the steps of a SET_LOCATION are abandoned in FAULTED and ESTOP too (R95). In ESTOP it is
known from then on that the arm took SCALE_FAULT there (R69). -/
def scaleFaultArm (a : Arm) (s : State) : State :=
  let s := setCause .armFault (s.modMot a (fun m =>
    { m with lastFault := .scaleFault, estopFaulted := m.estopFaulted || decide (m.state = .estop) }))
  match s.doing a with
  | .inFlight _ => stopFor a (fun st => { st.takeFault .scaleFault with drivesOff := true }) s
  | .ending o f => drivesOff a (s.setDoing a (.ending o (endFault o f .scaleFault)))
  | _ =>
    match (s.arm a).mot.state with
    | .unhomed => drivesOff a s
    | .idle => (leaveRest a (drivesOff a s)).setArmState a .unhomed
    | .standby => (leaveRest a (drivesOff a s)).setArmState a .unhomed
    | .waking =>
      if s.hasPlan a then let s := abandon a true s; faultAt a .scaleFault ((s.arm a).mot.resume.getD .boundary) s
      else s.modMot a (fun m => { m with state := .unhomed, wakeTimer := none })
    | .faulted => abandonLocating a (drivesOff a s)
    | .estop => abandonLocating a s
    | _ =>
      let s := abandon a true s
      faultAt a .scaleFault ((s.arm a).mot.resume.getD .boundary) s

end Sys2Proof.Machine
end

