-- ==== Sys2Proof/Machine/Serve.lean ====
section
/-! DEFINITION. The end of every command that sets an arm to work: the pending rack claims, granted racks and rooms, the pending zone claims
in tie order (R79, R105), the starts that go on, and the rewrites of the status block. -/

namespace Sys2Proof.Machine

/-- The arm asks for the rack. -/
def asksRack (s : State) (a : Arm) : Bool :=
  match s.doing a with
  | .rackAsk => true
  | _ => false

/-- The rack claims that are pending: both in tie order, which then names the other arm, or the one that is pending alone (R105). -/
def serveRack (s : State) : State :=
  match asksRack s .A, asksRack s .B with
  | true, true =>
    let first := s.rack.tie
    let s := claimRack first.other (claimRack first s)
    { s with rack := { s.rack with tie := first.other } }
  | true, false => claimRack .A s
  | false, true => claimRack .B s
  | false, false => s

/-- An arm that has been granted the rack, or the room it asked for, goes on. -/
def serveGrant (a : Arm) (s : State) : State :=
  match s.doing a with
  | .rackHeld => holdRack a s
  | .roomHeld => roomGranted a s
  | _ => s

/-- The grants of both arms. -/
def serveGrants (s : State) : State := serveGrant .B (serveGrant .A s)

/-- The arm's claim of zones is pending. -/
def claims (s : State) (a : Arm) : Bool :=
  match s.doing a with
  | .claiming _ => true
  | _ => false

/-- One pending claim is judged (R77, R78); a leg that waits stops the sample timer (R131). -/
def serveClaim (a : Arm) (s : State) : State :=
  match s.doing a with
  | .claiming r =>
    if claimDeadlocks a r s then faultAt a .zoneDeadlock (.zones r) s
    else if claimable s.zones a (neededSet s a r) then claimOrWait a r s
    else claimOrWait a r (stopSampling a s)
  | _ => s

/-- The pending claims: both in tie order, which then names the other arm, or the one that is pending alone (R79). -/
def serveClaims (s : State) : State :=
  if claims s .A && claims s .B then
    let first := s.zoneTie
    let s := serveClaim first.other (serveClaim first s)
    { s with zoneTie := first.other }
  else serveClaim .B (serveClaim .A s)

/-- A start whose zones are granted goes on at step 3 (R53). -/
def serveStart (a : Arm) (s : State) : State :=
  match s.doing a with
  | .granted r => continueStart a r s
  | _ => s

/-- The arms' further work within a command. A grant can free the rack or pages for the other arm, once each way. -/
def serve (s : State) : State :=
  serveStart .B (serveStart .A (serveClaims (serveGrants (serveGrants (serveGrants (serveRack s))))))

/-- The end of a command that may set an arm to work: `s` is the state the command met. -/
def finishArms (s t : State) : Host.Outcome State Fault Refusal := .next (publish s (serve t))

end Sys2Proof.Machine
end

