-- ==== Sys2Proof/Machine/Scan.lean ====
section
/-! DEFINITION. The plan scanner and the result writer's part of a scan (R5, R6, R22 to R24, R43, R171). -/

namespace Sys2Proof.Machine

/-! ### Reading the tags (R6) -/

/-- A slot tag value the part recognises. -/
def slotTagKnown (t : Nat) : Bool := [tagFree, tagPosted, tagLibrary, tagTaken, tagDone].contains t

/-- A page tag value the part recognises. -/
def pageTagKnown (t : Nat) : Bool := [tagHost, tagGiven, tagFilling, tagFilled].contains t

/-- A POSTED slot with its arm and sequence number. -/
structure Posted where
  slot : Nat
  arm : Arm
  seq : Nat
deriving DecidableEq, Repr

/-- A slot as the scan reads it: its posting, if it has one that names an arm. -/
def postingOf (m : Mem) (n : Nat) : Option Posted :=
  if readTag m (slotBase n) = tagPosted then (slotArm m n).map (fun a => { slot := n, arm := a, seq := slotSeq m n }) else none

/-- The area error that a slot's tag or header gives (R6). -/
def slotError (m : Mem) (n : Nat) : Option (AreaCode × Nat) :=
  if !slotTagKnown (readTag m (slotBase n)) then some (.slotTag, slotBase n)
  else if readTag m (slotBase n) = tagPosted ∧ (slotArm m n).isNone = true then some (.slotHeader, slotBase n + 4)
  else none

/-- The area error that a page's tag gives (R6). -/
def pageError (m : Mem) (n : Nat) : Option (AreaCode × Nat) :=
  if pageTagKnown (readTag m (pageBase n)) then none else some (.pageTag, pageBase n)

/-- An area error is reported, if there is one (R10). -/
def reportIf (e : Option (AreaCode × Nat)) (s : State) : State :=
  match e with
  | some (c, o) => reportArea c o s
  | none => s

/-! ### Taking (R22 to R24) -/

/-- Distance of a posted slot from an expected sequence number (R22). -/
def distance (seq : Nat) (expected : BitVec 16) : Nat := (BitVec.ofNat 16 seq - expected).toNat

/-- R22: a posted slot at a distance of 32,768 or more is refused as STALE. -/
def refuseStale (e : BitVec 16) (p : Posted) (s : State) : State :=
  if 32768 ≤ distance p.seq e then writeBareOutcome p.slot tagPosted .stale s else s

/-- The executor at a take (R20, R25). -/
def Executor.taking (p : Plan) : Executor :=
  { Executor.powerOn with plan := some p, slot := p.slot, slotLen := p.len, warnArmed := true, headerDue := true, policyDue := true }

/-- R21: the expected sequence number goes up by 1. -/
def advanceExpected (a : Arm) (s : State) : State := s.setArm a { s.arm a with expected := (s.arm a).expected + 1 }

/-- R50, R71: what the arm does with a plan taken for it. -/
def startPlan (a : Arm) (s : State) : State :=
  match (s.arm a).mot.state with
  | .standby =>
    let t := s.timer (ms (s.inst.arms.get a).wakeTime)
    (withdrawStandby a s).modMot a (fun m => { m with state := .waking, wakeTimer := some t, holdPending := false })
  | .waking => s.modMot a (fun m => { m with holdPending := false })
  | .estop => s.setResume a (some .boundary)
  | _ => fetch a (leaveRest a s)

/-- R23: the slot is tagged TAKEN and, if that succeeds, its plan is handed to the executor. -/
def takePlan (a : Arm) (slot : Nat) (s : State) : State :=
  let t := condTag (slotBase slot) tagPosted tagTaken s
  if tagIs s (slotBase slot) tagPosted then
    let p := planOf t.mem slot
    startPlan a (advanceExpected a
      ((t.modExec a (fun _ => Executor.taking p)).modWr a (fun w => { w with counts := PlanCounts.fresh })))
  else t

/-- R24: the slot is refused as WITHDRAWN; the expected number goes up if the DONE write succeeds. -/
def refuseWithdrawn (a : Arm) (slot : Nat) (s : State) : State :=
  let t := writeBareOutcome slot tagPosted .withdrawn s
  if tagIs s (slotBase slot) tagPosted then advanceExpected a t else t

/-- The arm can take a plan (R23). -/
def canTake (s : State) (a : Arm) : Bool := !s.hasPlan a && decide ((s.arm a).mot.state ≠ .faulted)

/-- R23: the lowest-indexed slot at distance 0 is resolved. -/
def resolveCandidate (a : Arm) (c : Option Posted) (s : State) : State :=
  match c with
  | some p =>
    if !canTake s a then s
    else if withdrawSet s.mem p.slot then refuseWithdrawn a p.slot s
    else takePlan a p.slot s
  | none => s

/-- R22, R23: the judgement of one arm's posted slots. -/
def judgeArm (posted : List Posted) (s : State) (a : Arm) : State :=
  let e := (s.arm a).expected
  let mine := posted.filter (fun p => decide (p.arm = a))
  let s := mine.foldl (fun s p => refuseStale e p s) s
  resolveCandidate a (mine.find? (fun p => distance p.seq e == 0)) s

/-! ### The parts of a scan (R5) -/

/-- The slots are read in index order, then each arm's postings judged. -/
def scanSlots (s : State) : State :=
  let slots := List.range slotCount
  let posted := slots.filterMap (postingOf s.mem)
  bothArms.foldl (judgeArm posted) (slots.foldl (fun s n => reportIf (slotError s.mem n) s) s)

/-- A page stands in a chain. -/
def inChain (s : State) (p : Nat) : Bool := bothArms.any (fun a => (s.arm a).wr.chain.any (fun c => c.page == p))

/-- The pages that the scan reads as GIVEN, less those that are being written for an arm (R171). -/
def givenPages (s : State) : List Nat :=
  (List.range pageCount).filter (fun p => readTag s.mem (pageBase p) == tagGiven && !inChain s p)

/-- The pages are read, the view replaced, and waiting requests considered (R171, R173). -/
def scanPages (s : State) : State :=
  let s := (List.range pageCount).foldl (fun s n => reportIf (pageError s.mem n) s) s
  reconsiderRoom { s with view := givenPages s }

/-- The arm is in one of the three wait states. -/
def waits (m : Motion) : Bool :=
  match m.state with
  | .zoneWait => true
  | .rackWait => true
  | .roomWait => true
  | _ => false

/-- R43: a set withdraw flag of a waiting arm ends its wait, and the plan ends WITHDRAWN, after a sample still in flight (R135). -/
def scanWait (s : State) (a : Arm) : State :=
  match (s.arm a).exec.plan with
  | some p =>
    if waits (s.arm a).mot && withdrawSet s.mem p.slot then endOrWait a .withdrawn .none (abandon a false s) else s
  | none => s

/-- The scan ends; a pending scan starts (R4). -/
def endScan (s : State) : State := { s with scanning := s.scanPending, scanPending := false }

/-- A scan is asked for: it starts, or one is marked pending (R4). -/
def askScan (s : State) : State := if s.scanning then { s with scanPending := true } else { s with scanning := true }

end Sys2Proof.Machine
end

