-- ==== Sys2Proof/Machine/ExchangePort.lean ====
section
/-! DEFINITION. The commands of the exchange port (chapter 1): power-on, START, STOP, SOFT_RESET, NUDGE, the interrupt registers, the
rescan timer, the scan, and the rewrites of the status block. -/

namespace Sys2Proof.Machine

/-! ### Power-on (R16) -/

/-- POWER_ON: every block and register in its power-on state, the status block written, the rest of the exchange memory as it stood
(notes/assumptions/14.md); the ESTOP cause is set if the input is asserted (R68). -/
def execPowerOn (estop : Bool) (signals : PerArm (Axes Bool)) (s : State) : Host.Outcome State Fault Refusal :=
  let t := { State.blank estop signals with draws := s.draws, pending := s.pending }
  let t := { t with mem := t.powerOnStatus s.mem }
  .next (if estop then setCause .estop t else t)

/-! ### START (R12, R13) -/

/-- START: in STOPPED the device enters STARTING (R12). -/
def execStart (s : State) : Host.Outcome State Fault Refusal :=
  let t := s.opened
  finish s (if s.device = .stopped ∧ s.resetting = false then { t with device := .starting } else t)

/-- R12: a START fails at the first field that breaks its range or condition. -/
def startFails (code : AreaCode) (offset : Nat) (s : State) : State :=
  setCause .startDone
    { s with device := .stopped, areaCode := code, areaOffset := BitVec.ofNat 22 offset, startResult := .failed code }

/-- R13 step 1: a slot found TAKEN receives the outcome INTERRUPTED and is tagged DONE. -/
def interruptSlot (s : State) (n : Nat) : State :=
  if readTag s.mem (slotBase n) = tagTaken then writeBareOutcome n tagTaken .interrupted s else s

/-- R13 step 2: a page found FILLING is tagged FILLED if its header counts a record, GIVEN if not. -/
def settlePage (s : State) (n : Nat) : State :=
  if readTag s.mem (pageBase n) = tagFilling then
    if 1 ≤ readNat s.mem (pageBase n + 10) 2 then setCause .pageClosed (condTag (pageBase n) tagFilling tagFilled s)
    else condTag (pageBase n) tagFilling tagGiven s
  else s

/-- R13 step 3, R25, R119, R122, R171: one arm's blocks prepared for running (notes/assumptions/38.md). -/
def prepareArm (r : ArmRec) : ArmRec :=
  { r with
    expected := 0
    exec := { r.exec.ended with itemsDone := 0, feedsClamped := 0 }
    cap := r.cap.cleared
    scale := { r.scale with latch := none }
    wr := Writer.powerOn
    change := none }

/-- R13 step 3: the blocks are prepared. -/
def prepareBlocks (s : State) : State :=
  let c := readConsts s.mem
  let t := startRack { s with
    inst := c, zones := startZones s c, view := [], arms := { a := prepareArm s.arms.a, b := prepareArm s.arms.b } }
  report .zones (retakeThermal (readChans s.mem) t)

/-- R13 step 4, R138: RUNNING is entered; the rescan timer, the first scan and the first thermal cycle start. A read that a STOP left in
progress is still carried to its end, and the first cycle follows it (R140) (notes/assumptions/34.md). -/
def enterRunning (wire : Wire) (s : State) : State :=
  let t := setCause .startDone
    { s with device := .running, startResult := .ok, rescan := some (s.timer (ms s.inst.rescan)), scanning := true, scanPending := false }
  let t := t.modThermal (fun h => { h with due := some (s.timer (ms s.inst.cyclePeriod)) })
  if t.thermal.cycle.isSome then t.modThermal (fun h => { h with pendingCycle := true }) else beginCycle wire t

/-- START_VALIDATION_COMPLETE: the START fails, or is completed in the order of R13 (notes/assumptions/21.md). -/
def execStartValidationComplete (wire : Wire) (s : State) : Host.Outcome State Fault Refusal :=
  let t := s.opened
  if s.device = .starting ∧ s.resetting = false then
    match installFault t with
    | some (code, offset) => finish s (startFails code offset t)
    | none =>
      let t := (List.range slotCount).foldl interruptSlot t
      let t := (List.range pageCount).foldl settlePage t
      finish s (enterRunning wire (prepareBlocks t))
  else finish s t

/-! ### STOP (R14) -/

/-- An arm's part of STOP: its plan ends STOPPED when it is stationary (R72). -/
def stopArm (s : State) (a : Arm) : State := (endArm a .stopped s).getD s

/-- R14: the device enters STOPPING; scans, the rescan timer and the thermal cycle stop. -/
def enterStopping (s : State) : State :=
  stopThermal { s with device := .stopping, scanning := false, scanPending := false, rescan := none }

/-- STOP: in RUNNING, each arm, A first (notes/assumptions/57.md), is brought to a stop and its plan ends STOPPED (R14, R72). -/
def execStop (s : State) : Host.Outcome State Fault Refusal :=
  let t := s.opened
  if s.device = .running ∧ s.resetting = false then finishArms s (bothArms.foldl stopArm (enterStopping t)) else finish s t

/-- The arm has come to rest: no segment of it is in flight (R49, R52). -/
def stationary (s : State) (a : Arm) : Bool :=
  match s.doing a with
  | .inFlight _ => false
  | _ => true

/-- The conditions of R14 for STOPPED: both arms stationary, no plan taken, no current page. -/
def stopComplete (s : State) : Bool :=
  bothArms.all (fun a => stationary s a && (!s.hasPlan a && (currentPage (s.arm a).wr).isNone))

/-- STOPPING_COMPLETE: the device enters STOPPED (R14). -/
def execStoppingComplete (s : State) : Host.Outcome State Fault Refusal :=
  let t := s.opened
  finish s (if s.device = .stopping ∧ s.resetting = false ∧ stopComplete s = true then { t with device := .stopped } else t)

/-! ### SOFT_RESET (R15) -/

/-- R15: an arm at the write of SOFT_RESET: a moving arm is stopped, every other activity and wait ends (notes/assumptions/33.md). The idle
timer runs on: it runs in every device state and stops at the exit from IDLE (R70). -/
def resetArm (s : State) (a : Arm) : State :=
  let s := if (waitedZone s.zones a).isSome then endZoneWait a s else s
  let s := (endRackWait a (dropRequest a s)).modCap a (fun c => { c with sampleTimer := none, sample := none })
  match s.doing a with
  | .inFlight _ => stopFor a (fun st => { st with reset := true }) s
  | _ => s.modMot a (fun m => { m with doing := .nothing, wakeTimer := none, holdPending := false })

/-- The state at the write of a SOFT_RESET (R15, R140). -/
def enterReset (s : State) : State :=
  bothArms.foldl resetArm
    (abandonThermal { s with device := .stopping, resetting := true, scanning := false, scanPending := false, rescan := none })

/-- SOFT_RESET: taken in every device state; one written during a SOFT_RESET has no effect (R15). -/
def execSoftReset (s : State) : Host.Outcome State Fault Refusal :=
  let t := s.opened
  finish s (if s.resetting then t else enterReset t)

/-- What the links are sent when both arms are stationary after a SOFT_RESET: every lid that a change opened is commanded closed, the standby
requests withdrawn, the supplies switched off (R15, R70, R100, R118). -/
def resetLinks (s : State) (a : Arm) : State :=
  let opened := ((s.arm a).change.map (fun c => c.opened)).getD []
  supplyOff a (withdrawStandby a (opened.foldl (fun s n => s.send (.closeLid n)) s))

/-- The power-on state of every block, with what a SOFT_RESET keeps: the exchange memory, the update counters and rewrites in progress,
the emergency-stop input and the scale signals as they are read (R15, R47, R50, R119). -/
def resetBlocks (s : State) : State :=
  { State.blank s.estop { a := s.arms.a.scale.signal, b := s.arms.b.scale.signal } with
    mem := s.mem, sections := s.sections, reports := Section.all, draws := s.draws, out := s.out, pending := s.pending }

/-- SOFT_RESET_COMPLETE: both arms are stationary (R15). -/
def execSoftResetComplete (s : State) : Host.Outcome State Fault Refusal :=
  let t := s.opened
  if s.resetting && bothArms.all (stationary s) then
    let t := resetBlocks (bothArms.foldl resetLinks t)
    finish s (if s.estop then setCause .estop t else t)
  else finish s t

/-! ### Scans (R4, R5) -/

/-- NUDGE: in RUNNING a scan starts or is marked pending (R4). -/
def execNudge (s : State) : Host.Outcome State Fault Refusal :=
  let t := s.opened
  finish s (if s.device = .running ∧ s.resetting = false then askScan t else t)

/-- RESCAN_TIMER_EXPIRY: the timer runs on, and a scan starts or is marked pending (R4). -/
def execRescanTimerExpiry (s : State) : Host.Outcome State Fault Refusal :=
  let t := s.opened
  match s.rescan with
  | some r => finish s (if s.due r then askScan { t with rescan := some (r.again (ms s.inst.rescan)) } else t)
  | none => finish s t

/-- TAG_SCAN: the scan in progress is carried out: slots, pages, waiting arms (R5) (notes/assumptions/32.md). -/
def execTagScan (s : State) : Host.Outcome State Fault Refusal :=
  let t := s.opened
  if s.scanning then finishArms s (endScan (bothArms.foldl scanWait (scanPages (scanSlots t)))) else finish s t

/-! ### Interrupt registers and ignored writes (R8, R9, R182) -/

/-- CAUSE_WRITE: a 1 clears the cause, a 0 leaves it (R9). -/
def execCauseWrite (value : BitVec 32) (s : State) : Host.Outcome State Fault Refusal :=
  let t := s.opened
  finish s { t with cause := t.cause &&& ~~~(value.setWidth 10) }

/-- MASK_WRITE: the mask is replaced (R9). -/
def execMaskWrite (value : BitVec 32) (s : State) : Host.Outcome State Fault Refusal :=
  let t := s.opened
  finish s { t with mask := value.setWidth 10 }

/-- REGISTER_WRITE_IGNORED: nothing changes (section 1.4, R182). -/
def execRegisterWriteIgnored (_offset : Nat) (_value : BitVec 32) (s : State) : Host.Outcome State Fault Refusal := finish s s.opened

/-- The ignored-command count rises; it wraps (R8). -/
def countIgnored (n : Nat) (s : State) : State := { s with ignoredCmds := s.ignoredCmds + BitVec.ofNat 16 n }

/-- ARM_CMD_UNDEFINED: nothing is delivered, and the count rises by 1 in every device state (notes/assumptions/74.md), but not during a SOFT_RESET
(R8, R15). -/
def execArmCmdUndefined (s : State) : Host.Outcome State Fault Refusal :=
  let t := s.opened
  finish s (if s.resetting then t else countIgnored 1 t)

/-! ### The status block (R17) -/

/-- R17 step 3: the counter becomes even; a change marked meanwhile begins one further rewrite. -/
def endRewrite (x : Section) (s : State) : State :=
  let k := s.sectionState x
  let c := k.counter + 1
  let t := { s.setSection x { counter := c, busy := false, marked := false } with
    mem := writeBytes s.mem (sectionBase x) (leBytes 4 c.toNat) }
  if k.marked then beginRewrite x t else t

/-- SECTION_REWRITE_COMPLETE: the rewrite in progress of the section ends (R17). -/
def execSectionRewriteComplete (sec : Section) (s : State) : Host.Outcome State Fault Refusal :=
  let t := s.opened
  .next (if (s.sectionState sec).busy then endRewrite sec t else t)

end Sys2Proof.Machine
end

