-- ==== Sys2Proof/Machine/ArmCommands.lean ====
section
/-! DEFINITION. The per-arm commands HOLD, RESUME and ABORT (R8, R64 to R67), the emergency-stop input (R68, R69), and the scale and drive
reports (R48, R59, R60). -/

namespace Sys2Proof.Machine

/-! ### ARM_CMD (R8) -/

/-- One named arm judges a delivered command; an arm that ignores it is counted. -/
def deliverTo (f : Arm → State → Option State) (s : State) (a : Arm) : State := (f a s).getD (countIgnored 1 s)

/-- The named arms, in the order in which the command is delivered. -/
def namedArms (sel : ArmSel) (first : Arm) : List Arm := [first, first.other].filter sel.names

/-- R8, R15: an ARM_CMD write is delivered in RUNNING, counted in the other device states, and neither during a SOFT_RESET. The
order of the two arms: notes/assumptions/57.md. -/
def deliver (sel : ArmSel) (first : Arm) (f : Arm → State → Option State) (s : State) : State :=
  if s.resetting then s
  else if s.device = .running then (namedArms sel first).foldl (deliverTo f) s
  else countIgnored sel.size s

/-- HOLD, judged by each named arm (R64). -/
def execHold (sel : ArmSel) (s : State) : Host.Outcome State Fault Refusal := finishArms s (deliver sel .A holdArm s.opened)

/-- The arm's RESUME would ask again for room. -/
def resumesRoom (s : State) (a : Arm) : Bool := decide ((s.arm a).mot.resume = some .room)

/-- RESUME, judged by each named arm (R65). Where both ask again for room, either request may be served first (R173):
notes/assumptions/6.md. -/
def execResume (sel : ArmSel) (s : State) : Host.Outcome State Fault Refusal :=
  let t := s.opened
  if resumesRoom s .A && resumesRoom s .B then
    let d := drawFirst t
    finishArms s (deliver sel (if d.1 then .A else .B) resumeArm d.2)
  else finishArms s (deliver sel .A resumeArm t)

/-- ABORT, judged by each named arm (R66). -/
def execAbort (sel : ArmSel) (s : State) : Host.Outcome State Fault Refusal :=
  finishArms s (deliver sel .A (fun a => endArm a .aborted) s.opened)

/-! ### The emergency-stop input (R68, R69) -/

/-- ESTOP_ASSERT: ESTOP is set and each arm enters ESTOP (R68). -/
def execEstopAssert (s : State) : Host.Outcome State Fault Refusal :=
  finishArms s (bothArms.foldl (fun s a => estopArm a s) (setCause .estop { s.opened with estop := true }))

/-- ESTOP_RELEASE: each stationary arm leaves ESTOP (R69). -/
def execEstopRelease (s : State) : Host.Outcome State Fault Refusal :=
  finishArms s (bothArms.foldl (fun s a => releaseArm a s) { s.opened with estop := false })

/-! ### Scales (R48) -/

/-- The signal state of an axis is replaced. -/
def setSignal (a : Arm) (i : Axis) (ok : Bool) (s : State) : State := s.modScale a (fun sc => { sc with signal := sc.signal.set i ok })

/-- SCALE_SIGNAL_LOSS: the axis becomes LOST, the homed flag is cleared, and SCALE_FAULT reaches the arm; a further loss while LOST is
not a new report (R48). -/
def execScaleSignalLoss (a : Arm) (i : Axis) (s : State) : Host.Outcome State Fault Refusal :=
  let t := s.opened
  if (s.arm a).scale.signal.get i then
    finishArms s (scaleFaultArm a ((setSignal a i false t).modScale a (fun sc => { sc with homed := false })))
  else finish s t

/-- SCALE_SIGNAL_RETURN: the axis becomes OK; counting resumes from the held value (R48). -/
def execScaleSignalReturn (a : Arm) (i : Axis) (s : State) : Host.Outcome State Fault Refusal :=
  finish s (setSignal a i true s.opened)

/-! ### Drives (R59, R60) -/

/-- DRIVE_READY: when all three amplifiers have reported within the 1,000 ms, the profile begins; a later report is none (R60). -/
def execDriveReady (a : Arm) (i : Axis) (s : State) : Host.Outcome State Fault Refusal :=
  let t := s.opened
  match s.doing a with
  | .driveWait r f ready timer =>
    let ready := ready.set i true
    if !s.inTime timer then finish s t
    else if ready.every (fun b => b) then finishArms s (beginProfile a r f t)
    else finishArms s (t.setDoing a (.driveWait r f ready timer))
  | _ => finish s t

/-- DRIVE_READY_TIMEOUT: DRIVE_FAULT before the profile begins, with all three drives off (R60). -/
def execDriveReadyTimeout (a : Arm) (s : State) : Host.Outcome State Fault Refusal :=
  let t := s.opened
  match s.doing a with
  | .driveWait r _ _ timer => if s.due timer then finishArms s (faultAt a .driveFault (resumeOf r) t) else finish s t
  | _ => finish s t

/-- AMPLIFIER_FAULT: DRIVE_FAULT with the drive enabled; with the drive off it is recorded; in ESTOP it is not judged (R60). -/
def execAmplifierFault (a : Arm) (i : Axis) (s : State) : Host.Outcome State Fault Refusal :=
  let t := s.opened
  if (s.arm a).mot.state = .estop then finish s t
  else if (s.arm a).mot.drives.get i then finishArms s (raiseFault a .driveFault t)
  else finish s (recordFault a .driveFault t)

/-- The commanded position differs from the scale position by more than the axis's following limit (R59). -/
def followingExceeded (s : State) (a : Arm) (i : Axis) (commanded : Int) : Bool :=
  decide (((s.inst.axes.get a).get i).following < (commanded - (s.position a).get i).natAbs)

/-- The axis's commanded position: the operand while a segment is in flight or where the spec does not say what the drives hold, else the
position held (R59, notes/assumptions/49.md). -/
def commandedPosition (s : State) (a : Arm) (i : Axis) (operand : Int) : Int :=
  match s.doing a, (s.arm a).mot.commanded with
  | .inFlight _, _ => operand
  | _, some p => p.get i
  | _, none => operand

/-- The axis's counter follows its scale (R47). -/
def countedAxis (a : Arm) (i : Axis) (count : BitVec 32) (s : State) : State := s.counted a (((s.arm a).scale.count).set i count)

/-- FOLLOWING_ERROR: the comparison of an enabled axis, not made in ESTOP (R59). -/
def execFollowingError (a : Arm) (i : Axis) (commanded : Int) (count : BitVec 32) (s : State) : Host.Outcome State Fault Refusal :=
  let t := countedAxis a i count s.opened
  if (s.arm a).mot.state ≠ .estop ∧ (s.arm a).mot.drives.get i = true ∧ followingExceeded t a i (commandedPosition s a i commanded) = true then
    finishArms s (raiseFault a .followingError t)
  else finish s t

end Sys2Proof.Machine
end

