-- ==== Sys2Proof/Machine/MotionEvents.lean ====
section
/-! DEFINITION. The events of a motion generator: reference marks and HOME searches (R63), the completion and the rest of a segment (R56),
and its timers (R62, R70, R71, R81). -/

namespace Sys2Proof.Machine

/-! ### HOME (R63) -/

/-- The segment in flight searches this axis and has not yet passed its mark. -/
def awaitsMark (seg : Segment) (i : Axis) : Bool :=
  match seg.req.kind with
  | .home (j :: _) => decide (i = j) && !seg.marked
  | _ => false

/-- REFERENCE_MARK: the counter value at the mark becomes c_ref of the searching axis, which decelerates to rest (R63). -/
def execReferenceMark (a : Arm) (i : Axis) (count : BitVec 32) (s : State) : Host.Outcome State Fault Refusal :=
  let t := s.opened
  match s.doing a with
  | .inFlight seg =>
    if awaitsMark seg i && (s.arm a).scale.signal.get i then
      let t := (countedAxis a i count t).modScale a (fun sc => { sc with cref := sc.cref.set i count })
      finishArms s (t.setDoing a (.inFlight { seg with marked := true }))
    else finish s (countedAxis a i count t)
  | _ => finish s (countedAxis a i count t)

/-- The search of the next axis begins (R63). -/
def searchNext (a : Arm) (rest : List Axis) (s : State) : State :=
  s.setDoing a (.inFlight (searchSegment s a { kind := .home rest, target := Vec3.zero, feed := 0, sweep := [] } rest))

/-- The axes whose search is left when the marked axis is at rest; none while an axis still searches. -/
def searchDone (seg : Segment) : Option (List Axis) :=
  match seg.req.kind with
  | .home (_ :: rest) => if seg.marked then some rest else none
  | _ => none

/-- HOME_AXIS_DONE: the search of the axis is done; the next axis follows, or the HOME completes (R63). -/
def execHomeAxisDone (a : Arm) (counts : Counts) (s : State) : Host.Outcome State Fault Refusal :=
  let t := s.opened.counted a counts
  match s.doing a, (s.arm a).mot.stop with
  | .inFlight seg, none =>
    (match searchDone seg with
      | some [] => finishArms s (homeDone a t)
      | some (i :: rest) => finishArms s (searchNext a (i :: rest) t)
      | none => finish s t)
  | _, _ => finish s t

/-! ### Segments (R56) -/

/-- Every axis lies within the in-position band of its target (R56). -/
def inBand (s : State) (a : Arm) (target : Vec3) : Bool :=
  let p := s.position a
  let n := (s.inst.arms.get a).band
  decide ((p.x - target.x).natAbs ≤ n) && (decide ((p.y - target.y).natAbs ≤ n) && decide ((p.z - target.z).natAbs ≤ n))

/-- R56: the segment is complete: the position is shown, the drives hold the target, the zones are released, and the item or phase is
told. -/
def completeSegment (a : Arm) (seg : Segment) (s : State) : State :=
  segmentDone a seg.req (releaseByEnvelope a ((s.showPosition a).modMot a (fun m =>
    { m with doing := .nothing, commanded := some seg.req.target })))

/-- SEGMENT_COMPLETE: the profile has ended with the arm at these counts; the segment completes if they lie in the band (R56)
(notes/assumptions/19.md). -/
def execSegmentComplete (a : Arm) (counts : Counts) (s : State) : Host.Outcome State Fault Refusal :=
  let t := s.opened.counted a counts
  match s.doing a, (s.arm a).mot.stop with
  | .inFlight seg, none =>
    if !seg.req.kind.isHome && inBand t a seg.req.target then finishArms s (completeSegment a seg t) else finish s t
  | _, _ => finish s t

/-- IN_POSITION_TIMEOUT: the band has not been reached 1,000 ms after the profile's end; the stationary arm takes FOLLOWING_ERROR
(R56, R59). -/
def execInPositionTimeout (a : Arm) (counts : Counts) (s : State) : Host.Outcome State Fault Refusal :=
  let t := s.opened.counted a counts
  match s.doing a, (s.arm a).mot.stop with
  | .inFlight seg, none =>
    if !seg.req.kind.isHome && !inBand t a seg.req.target then finishArms s (restArm a (raiseFault a .followingError t)) else finish s t
  | _, _ => finish s t

/-- ARM_AT_REST: a stopping arm has come to rest at these counts (R56). -/
def execArmAtRest (a : Arm) (counts : Counts) (s : State) : Host.Outcome State Fault Refusal :=
  finishArms s (restArm a (s.opened.counted a counts))

/-! ### Timers -/

/-- DWELL_TIMER_EXPIRY: the DWELL completes (R62). -/
def execDwellTimerExpiry (a : Arm) (s : State) : Host.Outcome State Fault Refusal :=
  let t := s.opened
  match s.doing a with
  | .dwelling timer => if s.due timer then finishArms s (completeItem a t) else finish s t
  | _ => finish s t

/-- IDLE_TIMER_EXPIRY: the IDLE arm enters STANDBY, its drives off and the standby request sent (R70). -/
def execIdleTimerExpiry (a : Arm) (s : State) : Host.Outcome State Fault Refusal :=
  let t := s.opened
  if (s.arm a).mot.state = .idle ∧ s.dueOpt (s.arm a).mot.idleTimer = true then
    finish s (((drivesOff a t).modMot a (fun m => { m with state := .standby, idleTimer := none, standby := true })).send (.standbyRequest a))
  else finish s t

/-- The end of the wake: HELD, the first fetch, or IDLE (R71). -/
def wakeEnds (a : Arm) (s : State) : State :=
  let s := s.modMot a (fun m => { m with wakeTimer := none })
  if !s.hasPlan a then enterIdle a s else boundary a (s.setArmState a .running)

/-- WAKE_TIMER_EXPIRY (R71). -/
def execWakeTimerExpiry (a : Arm) (s : State) : Host.Outcome State Fault Refusal :=
  let t := s.opened
  if (s.arm a).mot.state = .waking ∧ s.dueOpt (s.arm a).mot.wakeTimer = true then finishArms s (wakeEnds a t) else finish s t

/-- ZONE_WAIT_TIMEOUT: the wait ends and the arm takes ZONE_TIMEOUT, with the waiting segment as resume point (R81). -/
def execZoneWaitTimeout (a : Arm) (s : State) : Host.Outcome State Fault Refusal :=
  let t := s.opened
  match s.doing a with
  | .zoneWait r _ (some timer) => if s.due timer then finishArms s (faultAt a .zoneTimeout (.zones r) (endZoneWait a t)) else finish s t
  | _ => finish s t

end Sys2Proof.Machine
end

