-- ==== Sys2Proof/Machine/Items.lean ====
section
/-! DEFINITION. The item steps: the item that an arm's executor has fetched and handed on is carried out by the block of its kind
(section 2.3, R34, R44). A step for an item that is not the one handed on has no effect (notes/assumptions/13.md). -/

namespace Sys2Proof.Machine

/-! ### Motion items and DWELL (R61 to R63) -/

/-- The segment of a MOVE: to its target plus the pattern offset (R39, R61). -/
def moveReq (target off : Vec3) (feed : Nat) : SegReq :=
  let p := Vec3.add target off
  { kind := .move, target := p, feed := feed, sweep := [p] }

/-- MOVE: one segment (R61). -/
def execMove (a : Arm) (s : State) : Host.Outcome State Fault Refusal :=
  let t := s.opened
  match handedItem s a with
  | some (.move target feed) => finishArms s (startSegment a (moveReq target (s.arm a).exec.pattern feed) t)
  | _ => finish s t

/-- DWELL: the dwell timer starts with the item's time in ms (R62). -/
def execDwell (a : Arm) (s : State) : Host.Outcome State Fault Refusal :=
  let t := s.opened
  match handedItem s a with
  | some (.dwell time) => finish s (t.setDoing a (.dwelling (t.timer (ms time))))
  | _ => finish s t

/-- The HOME segment: the searches of Z, Y and X (R63). -/
def homeReq : SegReq := { kind := .home [.Z, .Y, .X], target := Vec3.zero, feed := 0, sweep := [] }

/-- HOME: the reference searches, once every zone in use is granted (R63). -/
def execHome (a : Arm) (s : State) : Host.Outcome State Fault Refusal :=
  let t := s.opened
  match handedItem s a with
  | some .home => finishArms s (startSegment a homeReq t)
  | _ => finish s t

/-! ### Capture items and MARK (R123, R178) -/

/-- TOUCH: the capture unit takes the item and asks for room for one record (R123, R125). -/
def execTouch (a : Arm) (s : State) : Host.Outcome State Fault Refusal :=
  let t := s.opened
  match handedItem s a with
  | some (.touch f) => finishArms s (requestRoom a 1 (takeItem a (.touch f) t))
  | _ => finish s t

/-- SCAN: the capture unit takes the item and asks for room for its maximum points (R123, R131). -/
def execScan (a : Arm) (s : State) : Host.Outcome State Fault Refusal :=
  let t := s.opened
  match handedItem s a with
  | some (.scan f) => finishArms s (requestRoom a f.maxPoints (takeItem a (.scan f) t))
  | _ => finish s t

/-- MARK: room for one record is asked for; with it the record is written (R178). -/
def execMark (a : Arm) (s : State) : Host.Outcome State Fault Refusal :=
  let t := s.opened
  match handedItem s a with
  | some (.mark _) => finishArms s (requestRoom a 1 t)
  | _ => finish s t

/-! ### HEAD and CHANGE (R97, R104) -/

/-- HEAD: the orientation becomes UNKNOWN, the index command is sent and the 3,000 ms timer starts (R97). -/
def execHead (a : Arm) (s : State) : Host.Outcome State Fault Refusal :=
  let t := s.opened
  match handedItem s a with
  | some (.head tilt swivel) =>
    finish s (((t.modHead a (fun h => { h with orient := none })).setDoing a (.indexing (t.timer (ms 3000)))).send (.index a tilt swivel))
  | _ => finish s t

/-- The head already carries the target: nothing to do (R104). -/
def nothingToChange (o : Occupancy) (p : Nat) : Bool := decide (o = .probe p) || (decide (o = .empty) && decide (p = 0))

/-- R104 step 3: the target entry's fault. -/
def targetFault (s : State) (a : Arm) (p : Nat) : Option FaultCode := if p = 0 then none else mountCheck s a p

/-- R104: the judgement of a CHANGE, and its rack claim. -/
def judgeChange (a : Arm) (p : Nat) (s : State) : State :=
  let o := (s.arm a).head.occ
  if o = .unidentified then failPlan a .headUnidentified s
  else if nothingToChange o p then completeItem a s
  else
    match targetFault s a p with
    | some f => faultAt a f .item s
    | none => s.setDoing a .rackAsk

/-- CHANGE: the head and the target entry are judged, then the rack is asked for (R104, R105). -/
def execChange (a : Arm) (s : State) : Host.Outcome State Fault Refusal :=
  let t := s.opened
  match handedItem s a with
  | some (.change p) => finishArms s (judgeChange a p t)
  | _ => finish s t

/-! ### CALL, RETURN and REPEAT (R37, R40) -/

/-- R37: the judgement of a CALL, and the entry to its library slot. -/
def judgeCall (a : Arm) (slot : Nat) (s : State) : State :=
  if !tagIs s (slotBase slot) tagLibrary then failPlan a .callTarget s
  else if s.inst.regions.get a ≤ (s.arm a).exec.stack.length then failPlan a .stackOverflow s
  else boundary a (judgeWarning a (s.modExec a (pushCall slot (slotLength s.mem slot))))

/-- CALL (R37, R38). -/
def execCall (a : Arm) (s : State) : Host.Outcome State Fault Refusal :=
  let t := s.opened
  match handedItem s a with
  | some (.call slot) => finishArms s (judgeCall a slot t)
  | _ => finish s t

/-- R37: a RETURN at depth 0 is BAD_ITEM; above it the top entry is popped. -/
def judgeReturn (a : Arm) (s : State) : State :=
  match (s.arm a).exec.stack with
  | [] => failPlan a .badItem s
  | c :: rest => boundary a (s.modExec a (popEntry (warnDepth s a) (slotLength s.mem c.slot) c rest))

/-- RETURN (R37). -/
def execReturnItem (a : Arm) (s : State) : Host.Outcome State Fault Refusal :=
  let t := s.opened
  match handedItem s a with
  | some .returnItem => finishArms s (judgeReturn a t)
  | _ => finish s t

/-- R40: an accepted REPEAT: the repeat state is set, the item counted, and the pointer moves to the governed item. -/
def acceptRepeat (count : Nat) (step : Vec3) (e : Executor) : Executor :=
  let past := countItem (pastItem e)
  { past with rep := some { remaining := count, iteration := 0, step := step, base := e.pattern } }

/-- R40: the judgement of a REPEAT by the head of the item that follows it. -/
def judgeRepeat (a : Arm) (count : Nat) (step : Vec3) (s : State) : State :=
  let e := (s.arm a).exec
  let next := e.offset + e.itemLen
  if governable s.mem e.slot next (e.slotLen - next) then boundary a (s.modExec a (acceptRepeat count step))
  else failPlan a .badItem s

/-- REPEAT (R40). -/
def execRepeatItem (a : Arm) (s : State) : Host.Outcome State Fault Refusal :=
  let t := s.opened
  match handedItem s a with
  | some (.repeatItem count step) => finishArms s (judgeRepeat a count step t)
  | _ => finish s t

/-! ### The probe table's items (R92, R94, R95) -/

/-- UPDATE_PROBE: the selected fields are written in one operation, and the mirror is rewritten (R92). -/
def execUpdateProbe (a : Arm) (s : State) : Host.Outcome State Fault Refusal :=
  let t := s.opened
  match handedItem s a with
  | some (.updateProbe u) => finishArms s (completeItem a (report .mirror (t.modProbe u.entry (applyUpdate u))))
  | _ => finish s t

/-- R95 steps 1 and 2: the permission is checked, the supply switched on, and its current compared 20 ms later. -/
def locateProbe (a : Arm) (p : Nat) (s : State) : State :=
  match mountCheck s a p with
  | some f => faultAt a f .item s
  | none => (supplyOn a s).setDoing a (.locating false (s.timer (ms 20)))

/-- R94 for p ≥ 1. -/
def judgeLocation (a : Arm) (p : Nat) (l : Location) (s : State) : State :=
  if !(s.probe p).present then faultAt a .probeAbsent .item s
  else if !locationAllowed s a p l then failPlan a .locationConflict s
  else
    match l with
    | .unknown => completeItem a (declareUnknown a p s)
    | .port n => completeItem a (moveProbe p (.port n) s)
    | .arm _ => locateProbe a p s

/-- R94 for p = 0: the null probe is mounted on an empty or unidentified head. -/
def judgeNullLocation (a : Arm) (l : Location) (s : State) : State :=
  if nullLocationAllowed s a l then completeItem a (mountNull a s) else failPlan a .locationConflict s

/-- SET_LOCATION (R94, R95). -/
def execSetLocation (a : Arm) (s : State) : Host.Outcome State Fault Refusal :=
  let t := s.opened
  match handedItem s a with
  | some (.setLocation p l) => finishArms s (if p = 0 then judgeNullLocation a l t else judgeLocation a p l t)
  | _ => finish s t

/-! ### The coordinate unit's items (R165 to R168) -/

/-- LOAD_MAP: its checks, then nodes and descriptor in one operation (R165, R166). -/
def execLoadMap (a : Arm) (s : State) : Host.Outcome State Fault Refusal :=
  let t := s.opened
  match handedItem s a with
  | some (.loadMap f) =>
    (match judgeLoadMap s.maps a f with
      | .inl c => finishArms s (failPlan a c t)
      | .inr (i, j) => finishArms s (completeItem a (report .maps { t with maps := loadMapInto t.maps a i j f })))
  | _ => finish s t

/-- CLEAR_MAP: its checks, then the descriptor becomes absent (R167). -/
def execClearMap (a : Arm) (s : State) : Host.Outcome State Fault Refusal :=
  let t := s.opened
  match handedItem s a with
  | some (.clearMap arm i j) =>
    (match judgeClearMap a arm i j with
      | .inl c => finishArms s (failPlan a c t)
      | .inr (i, j) => finishArms s (completeItem a { t with maps := t.maps.setDesc a i j none }))
  | _ => finish s t

/-- The part settings of an arm replaced. -/
def setPart (a : Arm) (p : PartSetting) (m : MapStore) : MapStore := { m with parts := m.parts.set a p }

/-- SET_PART: the arm's datum, α_p and setting in one operation (R168). -/
def execSetPart (a : Arm) (s : State) : Host.Outcome State Fault Refusal :=
  let t := s.opened
  match handedItem s a with
  | some (.setPart datum alpha on) =>
    finishArms s (completeItem a (report .maps { t with maps := setPart a { datum := datum, alpha := alpha, on := on } t.maps }))
  | _ => finish s t

end Sys2Proof.Machine
end

