-- ==== Sys2Proof/Machine/RackEvents.lean ====
section
/-! DEFINITION. The reports and timers of a probe change: the rack link (R103, R110), the coupling (R112 to R114) and the confirmations
(R112, R114), and the rack wait limit (R107). -/

namespace Sys2Proof.Machine

/-- The step of an arm's change that awaits a confirmation, with its timer. -/
def awaitedStep (s : State) (a : Arm) : Option (ChangeStep × Timer) :=
  match s.doing a, (s.arm a).change with
  | .changing t, some c => some (c.step, t)
  | _, _ => none

/-- The arm awaits the confirmation of this step. -/
def awaits (s : State) (a : Arm) (st : ChangeStep) : Bool :=
  match awaitedStep s a with
  | some (x, _) => decide (x = st)
  | none => false

/-- The arm awaits the confirmation of this step, and the time for it has not passed (R112, R114). -/
def awaitsInTime (s : State) (a : Arm) (st : ChangeStep) : Bool :=
  match awaitedStep s a with
  | some (x, t) => decide (x = st) && s.inTime t
  | none => false

/-- The answer confirms this step, which the arm awaits: it is that to the command sent as the step's timer started, and not to the command of
an abandoned step (R103, R113, R117) (notes/assumptions/61.md). -/
def answersStep (s : State) (r : HeadAnswer) (st : ChangeStep) : Bool :=
  match awaitedStep s r.arm with
  | some (x, t) => decide (x = st ∧ r.asked = t.start)
  | none => false

/-- The arm awaits the confirmation of this step and its timer has run. -/
def stepDue (s : State) (a : Arm) (st : ChangeStep) : Bool :=
  match awaitedStep s a with
  | some (x, t) => decide (x = st) && s.due t
  | none => false

/-! ### Lids (R103, R110) -/

/-- A lid report reaches the arm that holds the rack: the commanded state confirms its step, JAMMED raises LID_JAM (R110). It names
no command (notes/assumptions/61.md). -/
def lidReaches (a : Arm) (n : Nat) (l : Lid) (s : State) : State :=
  match awaitedStep s a with
  | some (st, _) =>
    if (s.change a).port = n then
      match lidWanted st with
      | some w =>
        if l = w then lidStepDone a s
        else if l = .jammed then faultAt a .lidJam (.changeStep (lidRetry st)) s
        else s
      | none => s
    else s
  | none => s

/-- What a report does for the holder of the rack. -/
def forHolder (f : Arm → State → State) (s : State) : State :=
  match s.rack.holder with
  | some a => f a s
  | none => s

/-- LID_REPORT: the report is written into the record, which rewrites the rack section, and may confirm or jam the holder's lid step
(R103, R110). -/
def execLidReport (port : Nat) (lid : Lid) (s : State) : Host.Outcome State Fault Refusal :=
  let t := report .rack (s.opened.modPort port (fun p => { p with lid := lid }))
  finishArms s (forHolder (fun a s => lidReaches a port lid s) t)

/-- LID_TIMER_EXPIRY: LID_TIMEOUT (R110). -/
def execLidTimerExpiry (a : Arm) (s : State) : Host.Outcome State Fault Refusal :=
  let t := s.opened
  match awaitedStep s a with
  | some (st, timer) =>
    if (lidWanted st).isSome && s.due timer then finishArms s (faultAt a .lidTimeout (.changeStep (lidRetry st)) t) else finish s t
  | none => finish s t

/-! ### Occupancy (R103, R112, R114) -/

/-- Port occupancy of a sensor's report. -/
def occOf (occupied : Bool) : PortOcc := if occupied then .occupied else .empty

/-- An occupancy report reaches the arm that holds the rack: OCCUPIED confirms D7, EMPTY confirms P7, each within its 500 ms (R112,
R114). -/
def occupancyReaches (a : Arm) (n : Nat) (occupied : Bool) (s : State) : State :=
  if (s.change a).port = n then
    if occupied && awaitsInTime s a .d7 then confirmDrop a s
    else if !occupied && awaitsInTime s a .p7confirm then closeStep a .p8 s
    else s
  else s

/-- The 100 ms of the status request are over. -/
def statusOver (s : State) : Bool :=
  match s.rack.statusTimer with
  | some t => decide (t.len < s.since t.start)
  | none => false

/-- The port's reply has not come within 100 ms of the request, and no occupancy report since (R103). -/
def replyLate (s : State) (n : Nat) : Bool := s.rack.missed.contains n || (s.rack.statusDue.contains n && statusOver s)

/-- The rack record after an occupancy report of a port: a reply that came too late for it is no longer awaited (R103). -/
def Rack.sensed (r : Rack) (late : Bool) (n : Nat) : Rack :=
  { r with
    missed := r.missed.filter (fun k => k ≠ n)
    statusDue := if late then r.statusDue.filter (fun k => k ≠ n) else r.statusDue }

/-- OCCUPANCY_REPORT: the report is written into the record, which rewrites the rack section, and may confirm the holder's step (R103). -/
def execOccupancyReport (port : Nat) (occupied : Bool) (s : State) : Host.Outcome State Fault Refusal :=
  let t := s.opened.modPort port (fun p => { p with occ := occOf occupied })
  let t := report .rack { t with rack := t.rack.sensed (statusOver s) port }
  finishArms s (forHolder (fun a s => occupancyReaches a port occupied s) t)

/-- One port of the status reply is written into the record, and awaited no longer; a reply later than 100 ms gives its lid alone, since
the occupancy stays UNKNOWN until the next occupancy report (R103) (notes/assumptions/36.md). -/
def takeReply (s : State) (r : PortReply) : State :=
  if replyLate s r.port then s.modPort r.port (fun p => { p with lid := r.lid })
  else
    let s := s.modPort r.port (fun p => { p with occ := occOf r.occupied, lid := r.lid })
    { s with rack := { s.rack with statusDue := s.rack.statusDue.filter (fun n => n ≠ r.port) } }

/-- RACK_STATUS_REPLY: occupancy and lid state of the ports it names are written into the record, and the rack section is rewritten
(R103). -/
def execRackStatusReply (ports : List PortReply) (s : State) : Host.Outcome State Fault Refusal :=
  finish s (report .rack (ports.foldl takeReply s.opened))

/-- RACK_STATUS_TIMEOUT: a port without reply 100 ms after the request has occupancy UNKNOWN until its next occupancy report (R103). -/
def execRackStatusTimeout (s : State) : Host.Outcome State Fault Refusal :=
  let t := s.opened
  if s.dueOpt s.rack.statusTimer then
    finish s { t with rack :=
      { t.rack with
        ports := mapIndexed (fun n p => if t.rack.statusDue.contains n then { p with occ := .unknown } else p) 0 t.rack.ports
        statusTimer := none, statusDue := [], missed := t.rack.statusDue ++ t.rack.missed } }
  else finish s t

/-! ### Coupling (R112 to R114) -/

/-- COUPLING_UNLOCKED: confirms D5, or ends the unlock wait of P3; otherwise it is dropped (R103, R112, R113, R117). -/
def execCouplingUnlocked (r : HeadAnswer) (s : State) : Host.Outcome State Fault Refusal :=
  let t := s.opened
  if answersStep s r .d5 then finishArms s (stepD6 r.arm t)
  else if answersStep s r .p3unlock then finishArms s (lockStep r.arm ((s.change r.arm).attempts + 1) t)
  else finish s t

/-- COUPLING_LOCKED: confirms P3; otherwise it is dropped (R103, R113, R114, R117). -/
def execCouplingLocked (r : HeadAnswer) (s : State) : Host.Outcome State Fault Refusal :=
  let t := s.opened
  if answersStep s r .p3lock then finishArms s (stepP4 r.arm t) else finish s t

/-- RELEASE_TIMER_EXPIRY: RELEASE_FAULT (R112). -/
def execReleaseTimerExpiry (a : Arm) (s : State) : Host.Outcome State Fault Refusal :=
  let t := s.opened
  if stepDue s a .d5 then finishArms s (faultAt a .releaseFault (.changeStep .d1) t) else finish s t

/-- DROP_CONFIRM_TIMEOUT: DROP_UNCONFIRMED (R112). -/
def execDropConfirmTimeout (a : Arm) (s : State) : Host.Outcome State Fault Refusal :=
  let t := s.opened
  if stepDue s a .d7 then finishArms s (faultAt a .dropUnconfirmed (.changeStep .d7) t) else finish s t

/-- The release command after a lock attempt that was not confirmed, with its wait of up to 500 ms (R113). -/
def unlockStep (a : Arm) (s : State) : State := awaitStep a 500 ((s.atStep a .p3unlock).send (.release a))

/-- LOCK_TIMER_EXPIRY: another attempt follows after a release, or LOCK_FAULT after the last one (R113). -/
def execLockTimerExpiry (a : Arm) (s : State) : Host.Outcome State Fault Refusal :=
  let t := s.opened
  if stepDue s a .p3lock then
    if (s.change a).attempts < 1 + s.inst.lockRetries then finishArms s (unlockStep a t)
    else finishArms s (faultAt a .lockFault (.changeStep .p1) (t.send (.release a)))
  else finish s t

/-- UNLOCK_WAIT_EXPIRY: the lock command is sent again (R113). -/
def execUnlockWaitExpiry (a : Arm) (s : State) : Host.Outcome State Fault Refusal :=
  let t := s.opened
  if stepDue s a .p3unlock then finishArms s (lockStep a ((s.change a).attempts + 1) t) else finish s t

/-- PICK_CONFIRM_TIMEOUT: PICK_UNCONFIRMED (R114). -/
def execPickConfirmTimeout (a : Arm) (s : State) : Host.Outcome State Fault Refusal :=
  let t := s.opened
  if stepDue s a .p7confirm then finishArms s (faultAt a .pickUnconfirmed (.changeStep .p7confirm) t) else finish s t

/-- RACK_WAIT_TIMEOUT: the wait ends and the arm takes RACK_TIMEOUT, with the rack wait as resume point (R107). -/
def execRackWaitTimeout (a : Arm) (s : State) : Host.Outcome State Fault Refusal :=
  let t := s.opened
  match s.doing a with
  | .rackWait timer => if s.due timer then finishArms s (faultAt a .rackTimeout .rack (endRackWait a t)) else finish s t
  | _ => finish s t

end Sys2Proof.Machine
end

