-- ==== Sys2Proof/Machine/HeadEvents.lean ====
section
/-! DEFINITION. The events of an arm's head: the supply's comparisons (R100, R101), the identity reply (R95, R114), indexing (R97) and the
end of the shadow (R99). -/

namespace Sys2Proof.Machine

/-! ### Supply (R95, R100, R101, R114) -/

/-- The first comparison of a supply step has passed: the identity is asked for (R95 step 3). -/
def locateIdentity (a : Arm) (s : State) : State :=
  let t := s.timer (ms 100)
  ((s.modHead a (fun h => { h with supplyChecked := true })).setDoing a (.locating true t)).send (.identityRequest a)

/-- SUPPLY_CHECK: the current 20 ms after the supply was switched on, for a SET_LOCATION or the supply step of a pick (R100). -/
def execSupplyCheck (a : Arm) (current : Nat) (s : State) : Host.Outcome State Fault Refusal :=
  let t := s.opened
  match s.doing a with
  | .locating false timer =>
    if !s.due timer then finish s t
    else if overLimit s current then finishArms s (faultAt a .supplyFault .item (supplyOff a t))
    else finishArms s (locateIdentity a t)
  | _ =>
    if !stepDue s a .p5 then finish s t
    else if overLimit s current then finishArms s (faultAt a .supplyFault (.changeStep .p5) (unpower a (supplyOff a t)))
    else finishArms s (stepP6 a t)

/-- The arm's fetched item completes at its own step before the arm's work ends: a non-motion item of a plan whose arm is neither FAULTED
already nor in ESTOP (R101). -/
def completesFirst (s : State) (a : Arm) : Bool :=
  match s.doing a with
  | .handed =>
    s.hasPlan a && ((s.arm a).exec.item.any Item.runsOut && (decide ((s.arm a).mot.state ≠ .faulted) && decide ((s.arm a).mot.state ≠ .estop)))
  | _ => false

/-- SUPPLY_FAULT of an overcurrent reaches the arm. With a non-motion item in progress the arm is FAULTED at once, and the item still
completes, leaving resume point Boundary (R101); a HOLD that waits is dropped (notes/assumptions/71.md). -/
def supplyFault (a : Arm) (s : State) : State :=
  if completesFirst s a then
    (recordFault a .supplyFault s).modMot a (fun m => { m with state := .faulted, wakeTimer := none, holdPending := false })
  else raiseFault a .supplyFault s

/-- OVERCURRENT: on a supply past its first comparison, the supply is switched off, the context UNPOWERED and SUPPLY_FAULT raised
(R101). -/
def execOvercurrent (a : Arm) (current : Nat) (s : State) : Host.Outcome State Fault Refusal :=
  let t := s.opened
  let h := (s.arm a).head
  if h.supplyOn && (h.supplyChecked && overLimit s current) then
    finishArms s (supplyFault a (unpower a (supplyOff a t)))
  else finish s t

/-! ### Identity (R95, R114) -/

/-- The probe a SET_LOCATION item declares. -/
def declaredProbe (e : Executor) : Nat :=
  match e.item with
  | some (.setLocation p _) => p
  | _ => 0

/-- R95 step 4: the reply is p's code. Presence, permission and location are judged again; then the location changes and p is mounted. -/
def locateConfirmed (a : Arm) (p : Nat) (s : State) : State :=
  match mountCheck s a p with
  | some f => faultAt a f .item (supplyOff a s)
  | none =>
    if (s.probe p).location = .unknown then
      completeItem a (mount a p (setOccupancy a (.probe p) (moveProbe p (.arm a) s)))
    else failPlan a .locationConflict (supplyOff a s)

/-- R95 step 5: another code, or no probe coupled. -/
def locateMismatch (a : Arm) (code : Option (BitVec 16)) (s : State) : State :=
  let s := supplyOff a s
  let s := if code.isNone ∧ (s.arm a).head.occ = .empty then s else setOccupancy a .unidentified s
  failPlan a .identMismatch s

/-- R114 P6: another code or no reply: in one operation the probe becomes UNKNOWN and the head UNIDENTIFIED. -/
def pickMismatch (a : Arm) (s : State) : State :=
  let s := supplyOff a s
  let s := clearContext a (setOccupancy a .unidentified (moveProbe (s.change a).probe .unknown s))
  faultAt a .identMismatch (.changeStep .mismatch) s

/-- The reply is the identity code of entry p (R95). -/
def identityIs (s : State) (p : Nat) (code : Option (BitVec 16)) : Bool := decide (code.map (fun c => c.toNat) = some (s.probe p).identity)

/-- The head's answer, or that of no probe coupled, reaches the step that awaits it: a SET_LOCATION's identity step (R95), or P6 of a pick
(R114). -/
def identityReaches (a : Arm) (code : Option (BitVec 16)) (s : State) : State :=
  match s.doing a with
  | .locating true _ =>
    let p := declaredProbe (s.arm a).exec
    if identityIs s p code then locateConfirmed a p s else locateMismatch a code s
  | _ =>
    if awaits s a .p6 then
      if identityIs s (s.change a).probe code then moveP7 a none s else pickMismatch a s
    else s

/-- The 100 ms of the identity step that awaits a reply. -/
def identityTimer (s : State) (a : Arm) : Option Timer :=
  match s.doing a with
  | .locating true timer => some timer
  | _ =>
    match awaitedStep s a with
    | some (.p6, timer) => some timer
    | _ => none

/-- IDENTITY_REPLY: the reply to the request in progress is its answer, and one that comes later than 100 ms is taken as no probe coupled;
a reply to an abandoned request is dropped (R95, R114, R117) (notes/assumptions/61.md). -/
def execIdentityReply (a : Arm) (r : IdentityReply) (s : State) : Host.Outcome State Fault Refusal :=
  let t := s.opened
  match identityTimer s a with
  | some timer =>
    if r.asked = timer.start then finishArms s (identityReaches a (if s.inTime timer then r.code else none) t) else finish s t
  | none => finish s t

/-- IDENTITY_TIMEOUT: taken as no probe coupled (R95, R114). -/
def execIdentityTimeout (a : Arm) (s : State) : Host.Outcome State Fault Refusal :=
  let t := s.opened
  if s.dueOpt (identityTimer s a) then finishArms s (identityReaches a none t) else finish s t

/-! ### Indexing and shadow (R97, R99) -/

/-- The pair a HEAD item commands. -/
def commandedPair (e : Executor) : Option (Nat × Nat) :=
  match e.item with
  | some (.head tilt swivel) => some (tilt, swivel)
  | _ => none

/-- The settle time of the context's copy; 0 with a context of NONE (R97). -/
def settleTime (h : Head) : Nat := if h.ctx.state = .none then 0 else h.ctx.copy.settle

/-- HEAD_INDEX_DONE: the orientation is the commanded pair, the shadow window opens, and the item completes; the report of a halted index is
dropped (R97, R98) (notes/assumptions/61.md). -/
def execHeadIndexDone (r : HeadAnswer) (s : State) : Host.Outcome State Fault Refusal :=
  let t := s.opened
  match s.doing r.arm with
  | .indexing timer =>
    if r.asked = timer.start then
      let t := t.modHead r.arm (fun h => { h with orient := commandedPair (s.arm r.arm).exec })
      finishArms s (completeItem r.arm (openShadow r.arm (settleTime (s.arm r.arm).head) t))
    else finish s t
  | _ => finish s t

/-- HEAD_TIMER_EXPIRY: the halt command, and HEAD_TIMEOUT (R97). -/
def execHeadTimerExpiry (a : Arm) (s : State) : Host.Outcome State Fault Refusal :=
  let t := s.opened
  match s.doing a with
  | .indexing timer => if s.due timer then finishArms s (faultAt a .headTimeout .item (t.send (.halt a))) else finish s t
  | _ => finish s t

/-- A start that waits for the shadow goes on within the command (R99). -/
def endShadowWait (a : Arm) (s : State) : State :=
  match s.doing a with
  | .shadowWait r => s.setDoing a (.granted r)
  | _ => s

/-- SHADOW_END: the window closes, and a waiting start goes on with its refresh and checks (R99, notes/assumptions/15.md). -/
def execShadowEnd (a : Arm) (s : State) : Host.Outcome State Fault Refusal :=
  let t := s.opened
  if s.dueOpt (s.arm a).head.shadow then finishArms s (endShadowWait a (t.modHead a (fun h => { h with shadow := none })))
  else finish s t

end Sys2Proof.Machine
end

