-- ==== Sys2Proof/Machine/CaptureEvents.lean ====
section
/-! DEFINITION. Triggers (R119 to R121, R128) and the samples of a SCAN (R131 to R134). -/

namespace Sys2Proof.Machine

/-! ### Triggers -/

/-- The edge came within the segment in flight, and not before it began: an edge that the completion of the segment before it has overtaken
is none of this one's (R125, R128) (notes/assumptions/69.md). -/
def Segment.holds (seg : Segment) (s : State) (e : Edge) : Bool := decide (s.since e.time < s.since seg.begun)

/-- The latch is armed at the edge (R119): a segment other than a leg is in flight and holds the edge, no stop is under way, that of a
SOFT_RESET included (notes/assumptions/63.md), and the shadow window is closed as the trigger is taken (notes/assumptions/76.md). -/
def latchArmed (s : State) (a : Arm) (e : Edge) : Bool :=
  match s.doing a with
  | .inFlight seg =>
    seg.holds s e && (!seg.req.kind.isLeg && ((s.arm a).mot.stop.isNone && (s.arm a).head.shadow.isNone))
  | _ => false

/-- The trigger fills the latch: the latch is armed and empty (R120). -/
def triggerLatches (s : State) (a : Arm) (e : Edge) : Bool := latchArmed s a e && (s.arm a).scale.latch.isNone

/-- The segment in flight is a pass of a TOUCH. -/
def inPass (s : State) (a : Arm) : Bool :=
  match s.doing a with
  | .inFlight seg => seg.req.kind.isPass
  | _ => false

/-- The latch is filled with the counts and the timestamp of the edge (R119); a LOST axis holds its count (R48). -/
def fillLatch (a : Arm) (e : Edge) (s : State) : State :=
  s.modScale a (fun sc => { sc with latch := some { counts := (followCounts sc e.counts).count, time := e.time, source := .trigger } })

/-- An ignored trigger is counted (R120). -/
def ignoreTrigger (a : Arm) (s : State) : State := s.modCap a (fun c => { c with ignoredTriggers := c.ignoredTriggers + 1 })

/-- TRIGGER: a hit, an unexpected contact, or ignored and counted (R120, R128). -/
def execTrigger (a : Arm) (e : Edge) (s : State) : Host.Outcome State Fault Refusal :=
  let t := s.opened
  if triggerLatches s a e then
    let t := fillLatch a e t
    if inPass s a then finishArms s (stopFor a id t) else finishArms s (raiseFault a .unexpectedContact t)
  else finish s (ignoreTrigger a t)

/-! ### Samples (R132) -/

/-- A new sample is taken: the latch is filled and consumed into the sample in flight, with the context copy of its segment, and the
deflection is asked for. -/
def takeSample (a : Arm) (s : State) : State :=
  let x : Sample := { counts := (s.arm a).scale.count, time := s.now, timer := s.timer (ms 1), ctx := (s.arm a).cap.ctx }
  (s.modCap a (fun c => { c with sample := some x })).send (.deflectionRequest a)

/-- SAMPLE_TIMER_EXPIRY: a sample still in flight completes without deflection, and a new one is taken (R131, R132). -/
def execSampleTimerExpiry (a : Arm) (counts : Counts) (s : State) : Host.Outcome State Fault Refusal :=
  let t := s.opened.counted a counts
  match (s.arm a).cap.sampleTimer with
  | some timer =>
    if s.due timer then
      let t := t.modCap a (fun c => { c with sampleTimer := some (timer.again (scanFields c).period) })
      finishArms s (takeSample a (sampleDone a none t))
    else finish s t
  | none => finish s t

/-- A sample completes, and what waited for it goes on (R132 to R134). -/
def settleSample (a : Arm) (d : Option Vec3) (s : State) : State :=
  if (s.arm a).cap.sample.isSome then afterSample a (sampleDone a d s) else s

/-- The head's deflection components as signed numbers. -/
def deflectionOf (d : Axes (BitVec 32)) : Vec3 := ⟨d.x.toInt, d.y.toInt, d.z.toInt⟩

/-- The sample in flight is the one whose request was sent at this time. -/
def sampleAsked (s : State) (a : Arm) (asked : Stamp) : Bool := (s.arm a).cap.sample.any (fun x => decide (x.time = asked))

/-- DEFLECTION_REPLY: the sample in flight takes the deflection that answers its request; without one, or to the request of a sample that
has already completed, the reply is dropped (R132). -/
def execDeflectionReply (a : Arm) (d : DeflectionReply) (s : State) : Host.Outcome State Fault Refusal :=
  let t := s.opened
  if sampleAsked s a d.asked then finishArms s (settleSample a (some (deflectionOf d.d)) t) else finish s t

/-- The sample's 1 ms has passed. -/
def sampleDue (s : State) (a : Arm) : Bool :=
  match (s.arm a).cap.sample with
  | some x => s.due x.timer
  | none => false

/-- DEFLECTION_TIMEOUT: the sample completes without deflection (R132). -/
def execDeflectionTimeout (a : Arm) (s : State) : Host.Outcome State Fault Refusal :=
  let t := s.opened
  if sampleDue s a then finishArms s (settleSample a none t) else finish s t

end Sys2Proof.Machine
end

