-- ==== Sys2Proof/Machine/ThermalEvents.lean ====
section
/-! DEFINITION. The events of the thermal line (R136 to R140). -/

namespace Sys2Proof.Machine

/-- THERMAL_CYCLE_DUE: the due times stay fixed; a cycle begins, or an overrun is counted and a cycle pending (R138). -/
def execThermalCycleDue (wire : Wire) (s : State) : Host.Outcome State Fault Refusal :=
  let t := s.opened
  match s.thermal.due with
  | some timer =>
    if s.due timer then
      finish s (cycleFallsDue wire (t.modThermal (fun h => { h with due := some (timer.again (ms s.inst.cyclePeriod)) })))
    else finish s t
  | none => finish s t

/-- The read in progress that awaits its reply: its channel, whether its cycle is abandoned, and its 5 ms timer. -/
def awaitedReply (s : State) : Option (Nat × Bool × Timer) :=
  match s.thermal.cycle with
  | some { chan := i, phase := .reply t, abandoned := b } => some (i, b, t)
  | _ => none

/-- The reply answers the read of a channel that awaits one: it comes from the channel's module, to this read's request, within the
5 ms (R136). -/
def answersRead (s : State) (i : Nat) (timer : Timer) (r : ModuleReply) : Bool :=
  decide (r.address = (s.chan i).address ∧ r.asked = timer.start ∧ s.since timer.start ≤ timer.len)

/-- THERMAL_REPLY: a complete reply to the read in progress ends the read as it is judged; any other is dropped, a late one to a read that
has ended as a miss among them (R136). -/
def execThermalReply (r : ModuleReply) (status check : BitVec 8) (wire : Wire) (s : State) : Host.Outcome State Fault Refusal :=
  let t := s.opened
  match awaitedReply s with
  | some (i, b, timer) =>
    if answersRead s i timer r then finish s (afterRead i b wire (takeRead i (judgeReply r.value status check) t)) else finish s t
  | none => finish s t

/-- THERMAL_READ_TIMEOUT: the read ends as a miss (R136). -/
def execThermalReadTimeout (wire : Wire) (s : State) : Host.Outcome State Fault Refusal :=
  let t := s.opened
  match awaitedReply s with
  | some (i, b, timer) => if s.due timer then finish s (afterRead i b wire (takeRead i .miss t)) else finish s t
  | none => finish s t

/-- The wire has been low for no more than 25 ms (R137). -/
def lowBriefly (s : State) : Bool :=
  match s.thermal.wire with
  | .low t => decide (s.since t ≤ ms 25)
  | .high => false

/-- DATA_WIRE_HIGH: within 25 ms of going low, the waiting request is sent (R137) (notes/assumptions/37.md). -/
def execDataWireHigh (s : State) : Host.Outcome State Fault Refusal :=
  let t := s.opened
  match s.thermal.cycle with
  | some { chan := i, phase := .waitWire, abandoned := b } =>
    if lowBriefly s then finish s (sendRead i b (t.modThermal (fun h => { h with wire := .high }))) else finish s t
  | _ => finish s t

/-- The wire has been low for more than 25 ms (R137). -/
def lowTooLong (s : State) : Bool :=
  match s.thermal.wire with
  | .low t => decide (ms 25 < s.since t)
  | .high => false

/-- LINE_STUCK: the release sequence is sent and the count rises (R137). -/
def execLineStuck (s : State) : Host.Outcome State Fault Refusal :=
  let t := s.opened
  match s.thermal.cycle with
  | some { chan := i, phase := .waitWire, abandoned := b } =>
    if lowTooLong s then
      finish s ((t.modThermal (fun h =>
        { h with lineStuck := h.lineStuck + 1, cycle := some { chan := i, phase := .releasing, abandoned := b } })).send .releaseSequence)
    else finish s t
  | _ => finish s t

/-- RELEASE_SEQUENCE_END: the request is sent on a high wire; on a low one the read ends as a miss (R137). -/
def execReleaseSequenceEnd (wire : Wire) (s : State) : Host.Outcome State Fault Refusal :=
  let t := s.opened.modThermal (fun h => { h with wire := wire })
  match s.thermal.cycle with
  | some { chan := i, phase := .releasing, abandoned := b } =>
    (match wire with
      | .high => finish s (sendRead i b t)
      | .low _ => finish s (afterRead i b wire (takeRead i .miss t)))
  | _ => finish s s.opened

end Sys2Proof.Machine
end

