-- ==== Sys2Proof/Machine/Dispatch.lean ====
section
/-! DEFINITION. The dispatch of the commands: one arm per constructor of `Instr`, each one direct call of its meaning. -/

namespace Sys2Proof.Machine

/-- The command's effect on everything but the queue. -/
def exec (i : Instr) (s : State) : Host.Outcome State Fault Refusal :=
  match i with
  | .powerOn estop signals => Sys2Proof.Machine.execPowerOn estop signals s
  | .start => Sys2Proof.Machine.execStart s
  | .startValidationComplete wire => Sys2Proof.Machine.execStartValidationComplete wire s
  | .stop => Sys2Proof.Machine.execStop s
  | .stoppingComplete => Sys2Proof.Machine.execStoppingComplete s
  | .softReset => Sys2Proof.Machine.execSoftReset s
  | .softResetComplete => Sys2Proof.Machine.execSoftResetComplete s
  | .nudge => Sys2Proof.Machine.execNudge s
  | .hold sel => Sys2Proof.Machine.execHold sel s
  | .resume sel => Sys2Proof.Machine.execResume sel s
  | .abort sel => Sys2Proof.Machine.execAbort sel s
  | .causeWrite value => Sys2Proof.Machine.execCauseWrite value s
  | .maskWrite value => Sys2Proof.Machine.execMaskWrite value s
  | .registerWriteIgnored offset value => Sys2Proof.Machine.execRegisterWriteIgnored offset value s
  | .rescanTimerExpiry => Sys2Proof.Machine.execRescanTimerExpiry s
  | .tagScan => Sys2Proof.Machine.execTagScan s
  | .sectionRewriteComplete sec => Sys2Proof.Machine.execSectionRewriteComplete sec s
  | .estopAssert => Sys2Proof.Machine.execEstopAssert s
  | .estopRelease => Sys2Proof.Machine.execEstopRelease s
  | .scaleSignalLoss arm axis => Sys2Proof.Machine.execScaleSignalLoss arm axis s
  | .scaleSignalReturn arm axis => Sys2Proof.Machine.execScaleSignalReturn arm axis s
  | .referenceMark arm axis count => Sys2Proof.Machine.execReferenceMark arm axis count s
  | .homeAxisDone arm counts => Sys2Proof.Machine.execHomeAxisDone arm counts s
  | .driveReady arm axis => Sys2Proof.Machine.execDriveReady arm axis s
  | .driveReadyTimeout arm => Sys2Proof.Machine.execDriveReadyTimeout arm s
  | .amplifierFault arm axis => Sys2Proof.Machine.execAmplifierFault arm axis s
  | .followingError arm axis commanded count => Sys2Proof.Machine.execFollowingError arm axis commanded count s
  | .segmentComplete arm counts => Sys2Proof.Machine.execSegmentComplete arm counts s
  | .inPositionTimeout arm counts => Sys2Proof.Machine.execInPositionTimeout arm counts s
  | .armAtRest arm counts => Sys2Proof.Machine.execArmAtRest arm counts s
  | .move arm => Sys2Proof.Machine.execMove arm s
  | .dwell arm => Sys2Proof.Machine.execDwell arm s
  | .home arm => Sys2Proof.Machine.execHome arm s
  | .touch arm => Sys2Proof.Machine.execTouch arm s
  | .scan arm => Sys2Proof.Machine.execScan arm s
  | .head arm => Sys2Proof.Machine.execHead arm s
  | .change arm => Sys2Proof.Machine.execChange arm s
  | .call arm => Sys2Proof.Machine.execCall arm s
  | .returnItem arm => Sys2Proof.Machine.execReturnItem arm s
  | .repeatItem arm => Sys2Proof.Machine.execRepeatItem arm s
  | .mark arm => Sys2Proof.Machine.execMark arm s
  | .updateProbe arm => Sys2Proof.Machine.execUpdateProbe arm s
  | .setLocation arm => Sys2Proof.Machine.execSetLocation arm s
  | .loadMap arm => Sys2Proof.Machine.execLoadMap arm s
  | .clearMap arm => Sys2Proof.Machine.execClearMap arm s
  | .setPart arm => Sys2Proof.Machine.execSetPart arm s
  | .dwellTimerExpiry arm => Sys2Proof.Machine.execDwellTimerExpiry arm s
  | .idleTimerExpiry arm => Sys2Proof.Machine.execIdleTimerExpiry arm s
  | .wakeTimerExpiry arm => Sys2Proof.Machine.execWakeTimerExpiry arm s
  | .zoneWaitTimeout arm => Sys2Proof.Machine.execZoneWaitTimeout arm s
  | .rackWaitTimeout arm => Sys2Proof.Machine.execRackWaitTimeout arm s
  | .lidReport port lid => Sys2Proof.Machine.execLidReport port lid s
  | .occupancyReport port occupied => Sys2Proof.Machine.execOccupancyReport port occupied s
  | .rackStatusReply ports => Sys2Proof.Machine.execRackStatusReply ports s
  | .rackStatusTimeout => Sys2Proof.Machine.execRackStatusTimeout s
  | .lidTimerExpiry arm => Sys2Proof.Machine.execLidTimerExpiry arm s
  | .couplingUnlocked answer => Sys2Proof.Machine.execCouplingUnlocked answer s
  | .couplingLocked answer => Sys2Proof.Machine.execCouplingLocked answer s
  | .releaseTimerExpiry arm => Sys2Proof.Machine.execReleaseTimerExpiry arm s
  | .dropConfirmTimeout arm => Sys2Proof.Machine.execDropConfirmTimeout arm s
  | .lockTimerExpiry arm => Sys2Proof.Machine.execLockTimerExpiry arm s
  | .unlockWaitExpiry arm => Sys2Proof.Machine.execUnlockWaitExpiry arm s
  | .pickConfirmTimeout arm => Sys2Proof.Machine.execPickConfirmTimeout arm s
  | .supplyCheck arm current => Sys2Proof.Machine.execSupplyCheck arm current s
  | .overcurrent arm current => Sys2Proof.Machine.execOvercurrent arm current s
  | .identityReply arm reply => Sys2Proof.Machine.execIdentityReply arm reply s
  | .identityTimeout arm => Sys2Proof.Machine.execIdentityTimeout arm s
  | .headIndexDone answer => Sys2Proof.Machine.execHeadIndexDone answer s
  | .headTimerExpiry arm => Sys2Proof.Machine.execHeadTimerExpiry arm s
  | .shadowEnd arm => Sys2Proof.Machine.execShadowEnd arm s
  | .trigger arm edge => Sys2Proof.Machine.execTrigger arm edge s
  | .sampleTimerExpiry arm counts => Sys2Proof.Machine.execSampleTimerExpiry arm counts s
  | .deflectionReply arm d => Sys2Proof.Machine.execDeflectionReply arm d s
  | .deflectionTimeout arm => Sys2Proof.Machine.execDeflectionTimeout arm s
  | .thermalCycleDue wire => Sys2Proof.Machine.execThermalCycleDue wire s
  | .thermalReply value status check wire => Sys2Proof.Machine.execThermalReply value status check wire s
  | .thermalReadTimeout wire => Sys2Proof.Machine.execThermalReadTimeout wire s
  | .dataWireHigh => Sys2Proof.Machine.execDataWireHigh s
  | .lineStuck => Sys2Proof.Machine.execLineStuck s
  | .releaseSequenceEnd wire => Sys2Proof.Machine.execReleaseSequenceEnd wire s
  | .armCmdUndefined => Sys2Proof.Machine.execArmCmdUndefined s

end Sys2Proof.Machine
end

