-- ==== Sys2Proof/Safety.lean ====
section
/-! DEFINITION. What claims about the LT-62 are stated in: the shape of the state, the bytes of the exchange memory that the part may
write, what holds between two commands, and the comparison of two states apart from the status block. -/

namespace Sys2Proof.Machine

/-! ### The shape of the state -/

/-- An item as a fetch hands it on: a list or a place of at most 8 orientation entries (R86, R92), and as many nodes as its count says. -/
def Item.sound : Item → Prop
  | .updateProbe u => (∀ l, u.orients = some l → l.length ≤ 8) ∧ (∀ k o, u.single = some (k, o) → k ≤ 7)
  | .loadMap f => f.nodes.length = f.count
  | _ => True

/-- The plan's slot is one of the 128, and the item handed on is sound. -/
def Executor.shaped (e : Executor) : Prop := (∀ p, e.plan = some p → p.slot < slotCount) ∧ (∀ i, e.item = some i → i.sound)

/-- The pages of the chain and the last kept page are among the 512. -/
def Writer.shaped (w : Writer) : Prop := (∀ c ∈ w.chain, c.page < pageCount) ∧ (∀ p, w.lastKept = some p → p < pageCount)

/-- One arm's indices are in range. -/
def ArmRec.shaped (r : ArmRec) : Prop := r.exec.shaped ∧ r.wr.shaped

/-- The tables have the sizes the spec gives them: nine sections, 8 zones, 16 ports, 32 channels, 32 probes of at most 8 orientation
entries, 4,096 nodes; slot and page indices are in range (R1, R17, R76, R86, R102, R141, R155). -/
structure State.Shaped (s : State) : Prop where
  sections : s.sections.length = 9
  zones : s.zones.length = 8
  ports : s.rack.ports.length = 16
  chans : s.thermal.chans.length = 32
  shownChans : s.thermal.shownChans.length = 32
  probes : s.probes.length = 32
  orients : ∀ p ∈ s.probes, p.orients.length ≤ 8
  nodes : s.maps.nodes.length = 4096
  view : ∀ p ∈ s.view, p < pageCount
  armA : s.arms.a.shaped
  armB : s.arms.b.shaped

/-! ### The exchange memory (R1) -/

/-- First offset after the last section of the status block (section 11.7). -/
def statusEnd : Nat := 0x2000

/-- The bytes that the part may write (R1): the sections of the status block, the tag and the outcome area of a plan slot, the
result pages. -/
def partMayWrite (a : Nat) : Bool :=
  decide (a < statusEnd) ||
    (decide (0x010000 ≤ a) && (decide (a < 0x090000) && (decide (a % 0x1000 < 4) || (decide (32 ≤ a % 0x1000) && decide (a % 0x1000 < 64))))) ||
    (decide (0x100000 ≤ a) && decide (a < 0x300000))

/-! ### The installation block by its bytes (section 11.8) -/

/-- Place of an axis among AX, AY, AZ, BX, BY, BZ. -/
def axisPlace (a : Arm) (i : Axis) : Nat :=
  (match a with
    | .A => 0
    | .B => 3) +
  match i with
    | .X => 0
    | .Y => 1
    | .Z => 2

/-- Place of an arm among A, B. -/
def armPlace : Arm → Nat
  | .A => 0
  | .B => 1

/-- A signed little-endian field of `n` bytes, in two's complement (R181). -/
def signedAt (m : Mem) (a n : Nat) : Int := if readNat m a n < 2 ^ (8 * n - 1) then readNat m a n else (readNat m a n : Int) - 2 ^ (8 * n)

/-- Three signed 8-byte fields, X, Y and Z. -/
def vecAt (m : Mem) (a : Nat) : Vec3 := ⟨signedAt m a 8, signedAt m (a + 8) 8, signedAt m (a + 16) 8⟩

/-- A point lies in the closed box with these corners. -/
def pointWithin (lo hi p : Vec3) : Prop := ∀ i : Axis, lo.get i ≤ p.get i ∧ p.get i ≤ hi.get i

/-- The channels among the first `n` that are enabled and have this role code. -/
def roleUsers (m : Mem) (n code : Nat) : List Nat :=
  (List.range n).filter (fun x => readNat m (0x8810 + 16 * x + 2) 1 == 1 && readNat m (0x8810 + 16 * x + 1) 1 == code)

/-- The role of a role code (section 11.8); a code that is not defined, which only a disabled channel can carry, is read as SPARE. -/
def roleAt : Nat → Role
  | 1 => .scale .A .X
  | 2 => .scale .A .Y
  | 3 => .scale .A .Z
  | 4 => .scale .B .X
  | 5 => .scale .B .Y
  | 6 => .scale .B .Z
  | 7 => .part .A
  | 8 => .part .B
  | 9 => .air
  | _ => .spare

/-- A field of the installation block, by its offset, is out of its range or breaks a condition that is judged at it, with the code it
gives (section 1.5, section 11.8, R12, R183; a defaulted field of 0 is in range). -/
inductive InstallBad (s : State) : AreaCode → Nat → Prop
  | countUnit (x : Nat) : x < 6 → readNat s.mem (0x8000 + 48 * x) 1 = 0 → InstallBad s .installAxis (0x8000 + 48 * x)
  | following (x : Nat) : x < 6 →
      (readNat s.mem (0x8000 + 48 * x + 4) 4 = 0 ∨ 10000000 < readNat s.mem (0x8000 + 48 * x + 4) 4) → InstallBad s .installAxis (0x8000 + 48 * x + 4)
  | acceleration (x : Nat) : x < 6 → readNat s.mem (0x8000 + 48 * x + 8) 4 = 0 → InstallBad s .installAxis (0x8000 + 48 * x + 8)
  | creep (x : Nat) : x < 6 → readNat s.mem (0x8000 + 48 * x + 12) 4 = 0 → InstallBad s .installAxis (0x8000 + 48 * x + 12)
  | expansion (x : Nat) : x < 6 → 3000 < readNat s.mem (0x8000 + 48 * x + 16) 2 → InstallBad s .installAxis (0x8000 + 48 * x + 16)
  | softLimits (x : Nat) : x < 6 → signedAt s.mem (0x8000 + 48 * x + 36) 8 ≤ signedAt s.mem (0x8000 + 48 * x + 28) 8 →
      InstallBad s .installAxis (0x8000 + 48 * x + 36)
  | sign (x : Nat) : x < 6 → readNat s.mem (0x8120 + 16 * x) 1 ≠ 0x01 → readNat s.mem (0x8120 + 16 * x) 1 ≠ 0xFF →
      InstallBad s .installFrame (0x8120 + 16 * x)
  | offset (x : Nat) : x < 6 → 549755813887 < (signedAt s.mem (0x8120 + 16 * x + 8) 8).natAbs → InstallBad s .installFrame (0x8120 + 16 * x + 8)
  | halfWidth (a i : Nat) : a < 2 → i < 3 → 1000000000 < readNat s.mem (0x8180 + 16 * a + 4 * i) 4 →
      InstallBad s .installFrame (0x8180 + 16 * a + 4 * i)
  | zoneUse (x : Nat) : x < 8 → 1 < readNat s.mem (0x81A0 + 64 * x) 1 → InstallBad s .installZone (0x81A0 + 64 * x)
  | envelopes (x : Nat) : x < 8 →
      (∀ a, (s.arm a).scale.homed = true ∧
        meetsZone (envelopeOf (readConsts s.mem) a (positionWith s (readConsts s.mem) a)) (readZone s.mem x) = true) →
      InstallBad s .installZone (0x81A0 + 64 * x)
  | zoneSpeed (x : Nat) : x < 8 → readNat s.mem (0x81A0 + 64 * x) 1 = 1 → readNat s.mem (0x81A0 + 64 * x + 4) 4 = 0 →
      InstallBad s .installZone (0x81A0 + 64 * x + 4)
  | corners (x i : Nat) : x < 8 → i < 3 → readNat s.mem (0x81A0 + 64 * x) 1 = 1 →
      signedAt s.mem (0x81A0 + 64 * x + 32 + 8 * i) 8 < signedAt s.mem (0x81A0 + 64 * x + 8 + 8 * i) 8 →
      InstallBad s .installZone (0x81A0 + 64 * x + 32 + 8 * i)
  | zoneWait : 600 < readNat s.mem 0x83A0 2 → InstallBad s .installZone 0x83A0
  | rackZone : (8 ≤ readNat s.mem 0x8400 1 ∨ readNat s.mem (0x81A0 + 64 * readNat s.mem 0x8400 1) 1 ≠ 1) → InstallBad s .installRack 0x8400
  | lockRetries : 3 < readNat s.mem 0x8401 1 → InstallBad s .installRack 0x8401
  | rackWait : (readNat s.mem 0x8402 2 = 0 ∨ 600 < readNat s.mem 0x8402 2) → InstallBad s .installRack 0x8402
  | portPoint (x d : Nat) : x < 16 → d = 0 ∨ d = 24 →
      ¬ pointWithin (vecAt s.mem (0x81A0 + 64 * readNat s.mem 0x8400 1 + 8)) (vecAt s.mem (0x81A0 + 64 * readNat s.mem 0x8400 1 + 32))
        (vecAt s.mem (0x8408 + 48 * x + d)) → InstallBad s .installRack (0x8408 + 48 * x + d)
  | cyclePeriod : readNat s.mem 0x8800 2 ≠ 0 → (readNat s.mem 0x8800 2 < 250 ∨ 10000 < readNat s.mem 0x8800 2) → InstallBad s .installThermal 0x8800
  | missLimit : 15 < readNat s.mem 0x8802 1 → InstallBad s .installThermal 0x8802
  | holdLimit : readNat s.mem 0x8804 2 ≠ 0 → (readNat s.mem 0x8804 2 < 10 ∨ 3600 < readNat s.mem 0x8804 2) → InstallBad s .installThermal 0x8804
  | spreadLimit : 5000 < readNat s.mem 0x8806 2 → InstallBad s .installThermal 0x8806
  | requalBand : 5000 < readNat s.mem 0x8808 2 → InstallBad s .installThermal 0x8808
  | address (x : Nat) : x < 32 → readNat s.mem (0x8810 + 16 * x + 2) 1 = 1 →
      (readNat s.mem (0x8810 + 16 * x) 1 = 0 ∨ 32 < readNat s.mem (0x8810 + 16 * x) 1 ∨
        ∃ y, y < x ∧ readNat s.mem (0x8810 + 16 * y + 2) 1 = 1 ∧ readNat s.mem (0x8810 + 16 * y) 1 = readNat s.mem (0x8810 + 16 * x) 1) →
      InstallBad s .installThermal (0x8810 + 16 * x)
  | role (x : Nat) : x < 32 → readNat s.mem (0x8810 + 16 * x + 2) 1 = 1 →
      (let code := readNat s.mem (0x8810 + 16 * x + 1) 1;
        9 < code ∨ (1 ≤ code ∧ code ≤ 6 ∧ 2 < (roleUsers s.mem (x + 1) code).length) ∨
          (7 ≤ code ∧ code ≤ 9 ∧ 4 < (roleUsers s.mem (x + 1) code).length)) → InstallBad s .installThermal (0x8810 + 16 * x + 1)
  | enabled (x : Nat) : x < 32 → 1 < readNat s.mem (0x8810 + 16 * x + 2) 1 → InstallBad s .installThermal (0x8810 + 16 * x + 2)
  | alarms (x : Nat) : x < 32 → readNat s.mem (0x8810 + 16 * x + 2) 1 = 1 →
      signedAt s.mem (0x8810 + 16 * x + 6) 2 ≤ signedAt s.mem (0x8810 + 16 * x + 4) 2 → InstallBad s .installThermal (0x8810 + 16 * x + 6)
  | rateLimit (x : Nat) : x < 32 → readNat s.mem (0x8810 + 16 * x + 2) 1 = 1 →
      (readNat s.mem (0x8810 + 16 * x + 8) 2 = 0 ∨ 32767 < readNat s.mem (0x8810 + 16 * x + 8) 2) → InstallBad s .installThermal (0x8810 + 16 * x + 8)
  | rescan : 100 < readNat s.mem 0x8C00 1 → InstallBad s .installLimits 0x8C00
  | split : (readNat s.mem 0x8C01 1 = 0 ∨ 3 < readNat s.mem 0x8C01 1) → InstallBad s .installLimits 0x8C01
  | supply : readNat s.mem 0x8C02 2 ∉ [0, 100, 200, 300, 400, 500, 600] → InstallBad s .installLimits 0x8C02
  | maxFeed (a : Nat) : a < 2 → readNat s.mem (0x8C08 + 32 * a) 4 = 0 → InstallBad s .installLimits (0x8C08 + 32 * a)
  | band (a : Nat) : a < 2 → (readNat s.mem (0x8C08 + 32 * a + 4) 4 = 0 ∨ 100000 < readNat s.mem (0x8C08 + 32 * a + 4) 4) →
      InstallBad s .installLimits (0x8C08 + 32 * a + 4)
  | wakeTime (a : Nat) : a < 2 → (readNat s.mem (0x8C08 + 32 * a + 10) 2 < 500 ∨ 10000 < readNat s.mem (0x8C08 + 32 * a + 10) 2) →
      InstallBad s .installLimits (0x8C08 + 32 * a + 10)

/-- The constants are the fields of the block, a field of 0 that has a default holding its default (section 1.5, section 2.4, section
11.8). -/
structure ConstsRead (m : Mem) (c : Consts) : Prop where
  axes : ∀ a i, let b := 0x8000 + 48 * axisPlace a i;
    (c.axes.get a).get i =
      { u := readNat m b 1, following := readNat m (b + 4) 4, accel := readNat m (b + 8) 4, creep := readNat m (b + 12) 4
        alpha := readNat m (b + 16) 2, home := signedAt m (b + 20) 4, lower := signedAt m (b + 28) 8, upper := signedAt m (b + 36) 8 }
  frame : ∀ a i, let b := 0x8120 + 16 * axisPlace a i;
    ((c.frame.get a).get i).offset = signedAt m (b + 8) 8 ∧ (readNat m b 1 = 0x01 → ((c.frame.get a).get i).sign = 1) ∧
      (readNat m b 1 = 0xFF → ((c.frame.get a).get i).sign = -1)
  half : ∀ a, let b := 0x8180 + 16 * armPlace a;
    c.half.get a = ⟨readNat m b 4, readNat m (b + 4) 4, readNat m (b + 8) 4⟩
  waits : c.zoneWait = readNat m 0x83A0 2 ∧ c.rackWait = readNat m 0x8402 2 ∧ c.lockRetries = readNat m 0x8401 1
  thermal : c.cyclePeriod = (if readNat m 0x8800 2 = 0 then 1000 else readNat m 0x8800 2) ∧
    c.missLimit = (if readNat m 0x8802 1 = 0 then 3 else readNat m 0x8802 1) ∧
    c.holdLimit = (if readNat m 0x8804 2 = 0 then 300 else readNat m 0x8804 2) ∧
    c.spreadLimit = (if readNat m 0x8806 2 = 0 then 500 else readNat m 0x8806 2) ∧ c.requalBand = readNat m 0x8808 2
  limits : c.rescan = (if readNat m 0x8C00 1 = 0 then 5 else readNat m 0x8C00 1) ∧
    c.supplyLimit = (if readNat m 0x8C02 2 = 0 then 300 else readNat m 0x8C02 2) ∧
    (readNat m 0x8C01 1 = 1 → c.regions = ⟨8, 24⟩) ∧ (readNat m 0x8C01 1 = 2 → c.regions = ⟨16, 16⟩) ∧
    (readNat m 0x8C01 1 = 3 → c.regions = ⟨24, 8⟩)
  arms : ∀ a, let b := 0x8C08 + 32 * armPlace a;
    c.arms.get a = { maxFeed := readNat m b 4, band := readNat m (b + 4) 4, idleTimeout := readNat m (b + 8) 1
                     wakeTime := readNat m (b + 10) 2, qXY := signedAt m (b + 12) 4, qXZ := signedAt m (b + 16) 4
                     qYZ := signedAt m (b + 20) 4 }

/-! ### Items by their bytes (section 11.5) -/

/-- The item head at `b` is that of an item of this kind and length in `left` bytes: a length of at least 8, a multiple of 8 and no more
than is left, flags 0 (R29). -/
structure HeadAt (m : Mem) (b left kind len : Nat) : Prop where
  kindIs : readNat m b 2 = kind
  lenIs : readNat m (b + 2) 2 = len
  least : 8 ≤ len ∧ len % 8 = 0
  within : len ≤ left
  flags : readNat m (b + 4) 4 = 0

/-- The length that each kind's layout asks for, from the item's own counts (section 11.5). -/
inductive Laid (m : Mem) (b : Nat) : Nat → Nat → Prop
  | move : Laid m b 1 40
  | dwell : Laid m b 2 16
  | home : Laid m b 3 8
  | touch : Laid m b 4 48
  | scan : Laid m b 5 (32 + 24 * readNat m (b + 14) 1)
  | head : Laid m b 6 16
  | change : Laid m b 7 16
  | call : Laid m b 8 16
  | returnItem : Laid m b 9 8
  | repeatItem : Laid m b 10 40
  | mark : Laid m b 11 16
  | update (n : Nat) :
      (n = if (readNat m (b + 10) 2).testBit 9 then readNat m (b + 32) 1 else if (readNat m (b + 10) 2).testBit 10 then 1 else 0) →
      Laid m b 12 (40 + 16 * n)
  | setLocation : Laid m b 13 16
  | loadMap (n : Nat) : 24 + 2 * readNat m (b + 12) 2 ≤ n → n < 32 + 2 * readNat m (b + 12) 2 → n % 8 = 0 → Laid m b 14 n
  | clearMap : Laid m b 15 16
  | setPart : Laid m b 16 32

/-- A vector of three signed fields of `n` bytes each. -/
def fieldsAt (m : Mem) (a n : Nat) : Vec3 := ⟨signedAt m a n, signedAt m (a + n) n, signedAt m (a + 2 * n) n⟩

/-- An orientation entry at an offset. -/
def orientEntryAt (m : Mem) (a : Nat) : OrientEntry :=
  { tilt := readNat m a 1, swivel := readNat m (a + 1) 1, offset := fieldsAt m (a + 4) 4 }

/-- An orientation entry within its ranges (R86). -/
def OrientEntry.ranged (o : OrientEntry) : Prop := o.tilt ≤ 14 ∧ o.swivel ≤ 48

/-- The field selected by bit `n` of the mask, or none. -/
def selectedBy {α : Type} (mask n : Nat) (v : α) : Option α := if mask.testBit n then some v else none

/-- The selected fields of an UPDATE_PROBE are within their ranges: a mask of defined bits, not empty and not both of bits 9 and 10 (R30, R86,
R92). -/
structure UpdateRanged (m : Mem) (b : Nat) : Prop where
  mask : readNat m (b + 10) 2 ≠ 0 ∧ readNat m (b + 10) 2 < 2048
  notBoth : ¬ ((readNat m (b + 10) 2).testBit 9 = true ∧ (readNat m (b + 10) 2).testBit 10 = true)
  present : (readNat m (b + 10) 2).testBit 0 = true → readNat m (b + 12) 1 ≤ 1
  kind : (readNat m (b + 10) 2).testBit 1 = true → readNat m (b + 13) 1 = 1 ∨ readNat m (b + 13) 1 = 2
  permission : (readNat m (b + 10) 2).testBit 3 = true → 1 ≤ readNat m (b + 14) 1 ∧ readNat m (b + 14) 1 ≤ 3
  port : (readNat m (b + 10) 2).testBit 4 = true → readNat m (b + 15) 1 ≤ 15
  speed : (readNat m (b + 10) 2).testBit 5 = true → 1 ≤ readNat m (b + 20) 4
  settle : (readNat m (b + 10) 2).testBit 6 = true → readNat m (b + 18) 2 ≤ 500
  overtravel : (readNat m (b + 10) 2).testBit 7 = true → 1 ≤ readNat m (b + 24) 4
  qualification : (readNat m (b + 10) 2).testBit 8 = true → readNat m (b + 28) 1 = 3 ∨
    (readNat m (b + 28) 1 = 1 ∧ -20000 ≤ signedAt m (b + 30) 2 ∧ signedAt m (b + 30) 2 ≤ 30000)
  list : (readNat m (b + 10) 2).testBit 9 = true → readNat m (b + 32) 1 ≤ 8 ∧
    (∀ k, k < readNat m (b + 32) 1 → (orientEntryAt m (b + 40 + 16 * k)).ranged) ∧
    ∀ j k, j < k → k < readNat m (b + 32) 1 → ¬ ((orientEntryAt m (b + 40 + 16 * j)).tilt = (orientEntryAt m (b + 40 + 16 * k)).tilt ∧
      (orientEntryAt m (b + 40 + 16 * j)).swivel = (orientEntryAt m (b + 40 + 16 * k)).swivel)
  single : (readNat m (b + 10) 2).testBit 10 = true → readNat m (b + 33) 1 ≤ 7 ∧ (orientEntryAt m (b + 40)).ranged

/-- The body at `b` is that of this item of this kind: its fields where section 11.5 places them, within the ranges of R30. -/
inductive BodyAt (m : Mem) (b : Nat) : Nat → Item → Prop
  | move : 1 ≤ readNat m (b + 32) 4 → BodyAt m b 1 (.move (vecAt m (b + 8)) (readNat m (b + 32) 4))
  | dwell : 1 ≤ readNat m (b + 8) 4 → BodyAt m b 2 (.dwell (min (readNat m (b + 8) 4) 65535))
  | home : BodyAt m b 3 .home
  | touch : 1 ≤ readNat m (b + 32) 4 → 1 ≤ readNat m (b + 40) 4 → 1 ≤ readNat m (b + 44) 2 → readNat m (b + 44) 2 ≤ 1023 →
      readNat m (b + 46) 1 ≤ 3 → BodyAt m b 4 (.touch
        { target := vecAt m (b + 8), touchFeed := readNat m (b + 32) 4, measureFeed := readNat m (b + 36) 4
          retractFeed := readNat m (b + 40) 4, backoff := readNat m (b + 44) 2, retries := readNat m (b + 46) 1 })
  | scan (w : Nat) : w = readNat m (b + 14) 1 → 1 ≤ w → w ≤ 16 → 1 ≤ readNat m (b + 8) 4 → 100 ≤ readNat m (b + 12) 2 →
      readNat m (b + 16) 4 ≤ readNat m (b + 20) 4 → 1 ≤ readNat m (b + 24) 2 → readNat m (b + 24) 2 ≤ 4095 → BodyAt m b 5 (.scan
        { feed := readNat m (b + 8) 4, period := readNat m (b + 12) 2, lo := readNat m (b + 16) 4, hi := readNat m (b + 20) 4
          maxPoints := readNat m (b + 24) 2, waypoints := (List.range w).map (fun k => vecAt m (b + 32 + 24 * k)) })
  | head : readNat m (b + 8) 1 ≤ 14 → readNat m (b + 9) 1 ≤ 48 → BodyAt m b 6 (.head (readNat m (b + 8) 1) (readNat m (b + 9) 1))
  | change : readNat m (b + 8) 1 ≤ 31 → BodyAt m b 7 (.change (readNat m (b + 8) 1))
  | call : readNat m (b + 8) 2 ≤ 127 → BodyAt m b 8 (.call (readNat m (b + 8) 2))
  | returnItem : BodyAt m b 9 .returnItem
  | repeatItem : BodyAt m b 10 (.repeatItem (readNat m (b + 8) 1) (vecAt m (b + 16)))
  | mark : BodyAt m b 11 (.mark (readNat m (b + 8) 4))
  | update (mask : Nat) (kind : ProbeKind) (perm : Permission) : mask = readNat m (b + 10) 2 → 1 ≤ readNat m (b + 8) 1 →
      readNat m (b + 8) 1 ≤ 31 → UpdateRanged m b → (kind = if readNat m (b + 13) 1 = 2 then .scan else .touch) →
      (perm = if readNat m (b + 14) 1 = 1 then .onlyA else if readNat m (b + 14) 1 = 2 then .onlyB else .both) →
      BodyAt m b 12 (.updateProbe
        { entry := readNat m (b + 8) 1, present := selectedBy mask 0 (readNat m (b + 12) 1 == 1), kind := selectedBy mask 1 kind
          identity := selectedBy mask 2 (readNat m (b + 16) 2), permission := selectedBy mask 3 perm
          homePort := selectedBy mask 4 (readNat m (b + 15) 1), speedLimit := selectedBy mask 5 (readNat m (b + 20) 4)
          settle := selectedBy mask 6 (readNat m (b + 18) 2), overtravel := selectedBy mask 7 (readNat m (b + 24) 4)
          qualification := selectedBy mask 8 (if readNat m (b + 28) 1 = 1 then some (signedAt m (b + 30) 2) else none)
          orients := selectedBy mask 9 ((List.range (readNat m (b + 32) 1)).map (fun k => orientEntryAt m (b + 40 + 16 * k)))
          single := selectedBy mask 10 (readNat m (b + 33) 1, orientEntryAt m (b + 40)) })
  | locateUnknown : readNat m (b + 8) 1 ≤ 31 → readNat m (b + 9) 1 = 1 → BodyAt m b 13 (.setLocation (readNat m (b + 8) 1) .unknown)
  | locatePort : readNat m (b + 8) 1 ≤ 31 → readNat m (b + 9) 1 = 2 → readNat m (b + 10) 1 ≤ 15 →
      BodyAt m b 13 (.setLocation (readNat m (b + 8) 1) (.port (readNat m (b + 10) 1)))
  | locateArm (a : Arm) : readNat m (b + 8) 1 ≤ 31 → readNat m (b + 9) 1 = 3 → readNat m (b + 10) 1 = armPlace a + 1 →
      BodyAt m b 13 (.setLocation (readNat m (b + 8) 1) (.arm a))
  | loadMap : BodyAt m b 14 (.loadMap
      { arm := readNat m (b + 8) 1, i := readNat m (b + 9) 1, j := readNat m (b + 10) 1, m := readNat m (b + 11) 1
        count := readNat m (b + 12) 2, base := readNat m (b + 14) 2, s0 := signedAt m (b + 16) 5
        nodes := (List.range (readNat m (b + 12) 2)).map (fun k => signedAt m (b + 24 + 2 * k) 2) })
  | clearMap : BodyAt m b 15 (.clearMap (readNat m (b + 8) 1) (readNat m (b + 9) 1) (readNat m (b + 10) 1))
  | setPart : readNat m (b + 23) 2 ≤ 3000 → readNat m (b + 25) 1 ≤ 1 →
      BodyAt m b 16 (.setPart (fieldsAt m (b + 8) 5) (readNat m (b + 23) 2) (readNat m (b + 25) 1 == 1))

/-- The probe index of a CHANGE, UPDATE_PROBE or SET_LOCATION is out of its range (R30). -/
inductive ProbeIndexBad (m : Mem) (b : Nat) : Nat → Prop
  | change : 31 < readNat m (b + 8) 1 → ProbeIndexBad m b 7
  | update : readNat m (b + 8) 1 = 0 ∨ 31 < readNat m (b + 8) 1 → ProbeIndexBad m b 12
  | setLocation : 31 < readNat m (b + 8) 1 → ProbeIndexBad m b 13

/-! ### Sections (R17) -/

/-- A section's update counter is odd exactly while a rewrite of it is in progress, and only then is a further one marked (R17). -/
def SectionState.sound (x : SectionState) : Prop := (x.counter.toNat % 2 = 1 ↔ x.busy = true) ∧ (x.marked = true → x.busy = true)

/-- All nine sections are sound (R17). -/
def State.SectionsSound (s : State) : Prop := ∀ x ∈ s.sections, x.sound

/-! ### Between two commands -/

/-- What an arm can be doing between two commands: no claim, grant or room is left to be carried on. -/
def Doing.settled : Doing → Bool
  | .claiming _ => false
  | .granted _ => false
  | .rackAsk => false
  | .rackHeld => false
  | .roomHeld => false
  | _ => true

/-- The arm waits for the rack. -/
def Doing.waitsRack : Doing → Bool
  | .rackWait _ => true
  | _ => false

/-- The arm waits for room. -/
def Doing.waitsRoom : Doing → Bool
  | .roomWait => true
  | _ => false

/-- The arm state of a wait (section 3.2). -/
def Doing.waitState : Doing → Option ArmState
  | .zoneWait _ _ _ => some .zoneWait
  | .rackWait _ => some .rackWait
  | .roomWait => some .roomWait
  | _ => none

/-- The arm states that an arm without a plan can be in (section 3.2). -/
def ArmState.withoutPlan : ArmState → Bool
  | .unhomed => true
  | .idle => true
  | .standby => true
  | .waking => true
  | .estop => true
  | _ => false

/-- Between two commands nothing is left half done: neither arm stands within a claim or a grant, the rack's waiter is in RACK_WAIT, an arm
whose room request waits is in ROOM_WAIT, an arm that waits is in the arm state of its wait, an arm without a plan is idle in one of the
states of section 3.2 for it and has no resume point, plans are taken only while the device is RUNNING or STOPPING, scans are made and the
rescan timer runs only while it is RUNNING, and no rewrite is left to be begun. -/
structure State.BetweenCommands (s : State) : Prop where
  settled : ∀ a, (s.doing a).settled = true
  rack : ∀ a, s.rack.waiter = some a → (s.doing a).waitsRack = true
  room : ∀ a, (s.arm a).wr.waiting.isSome = true → (s.doing a).waitsRoom = true
  waits : ∀ a st, (s.doing a).waitState = some st → (s.arm a).mot.state = st
  rest : ∀ a, s.hasPlan a = false → s.doing a = .nothing ∧ (s.arm a).mot.resume = none ∧ (s.arm a).mot.state.withoutPlan = true
  stopped : s.device = .stopped ∨ s.device = .starting → ∀ a, s.hasPlan a = false
  scans : s.scanning = true → s.device = .running
  rescanning : s.rescan.isSome = true → s.device = .running
  reports : s.reports = []

/-- No call stack is deeper than its region (R38). -/
def State.StacksFit (s : State) : Prop := ∀ a, (s.arm a).exec.stack.length ≤ s.inst.regions.get a

/-- The waits for zones: the waiter of a zone is in ZONE_WAIT with the zone in its needed set, and the other arm holds it, so that no arm
waits for a zone that is free or its own; an arm that waits is the waiter of exactly one zone; and never do both arms wait (R77, R78). -/
structure State.ZoneWaitsSound (s : State) : Prop where
  waiter : ∀ (a : Arm) (n : Nat) (z : Zone), s.zones[n]? = some z → z.waiter = some a →
    z.holder = some a.other ∧ ∃ r need d, s.doing a = .zoneWait r need d ∧ n ∈ need
  waits : ∀ a r need d, s.doing a = .zoneWait r need d →
    ∃ (n : Nat) (z : Zone), s.zones[n]? = some z ∧ z.waiter = some a ∧ ∀ (k : Nat) (y : Zone), s.zones[k]? = some y → y.waiter = some a → k = n
  circle : ∀ a r need d r' need' d', s.doing a = .zoneWait r need d → s.doing a.other ≠ .zoneWait r' need' d'

/-! ### Probes, ports and heads -/

/-- What a step of the change record finds on the head and in the record of the phase port: the probe to be dropped on the head and no
record until D6; an empty head from D7 and in a pick until P4, whose port records the probe from P2 on; the picked probe on the head after
P4 (R111 to R114). -/
def State.stepFits (s : State) (a : Arm) (c : Change) : ChangeStep → Prop
  | .d1 => (s.arm a).head.occ = .probe c.probe
  | .d2 => (s.arm a).head.occ = .probe c.probe ∧ (s.rack.port c.port).probe = none
  | .d3 => (s.arm a).head.occ = .probe c.probe ∧ (s.rack.port c.port).probe = none
  | .d5 => (s.arm a).head.occ = .probe c.probe ∧ (s.rack.port c.port).probe = none
  | .d7 => (s.arm a).head.occ = .empty ∧ (s.rack.port c.port).probe = none ∧ c.probe < 32
  | .p1 => (s.arm a).head.occ = .empty
  | .p2open => (s.arm a).head.occ = .empty ∧ (s.rack.port c.port).probe = some c.probe
  | .p2dock => (s.arm a).head.occ = .empty ∧ (s.rack.port c.port).probe = some c.probe
  | .p3lock => (s.arm a).head.occ = .empty ∧ (s.rack.port c.port).probe = some c.probe
  | .p3unlock => (s.arm a).head.occ = .empty ∧ (s.rack.port c.port).probe = some c.probe
  | .p5 => (s.arm a).head.occ = .probe c.probe
  | .p6 => (s.arm a).head.occ = .probe c.probe
  | .p7move => (s.arm a).head.occ = .probe c.probe
  | .p7confirm => (s.arm a).head.occ = .probe c.probe
  | .p8 => (s.arm a).head.occ = .probe c.probe
  | .claim => True
  | .d8move => True
  | .d8close => True
  | .mismatch => True

/-- The steps that are a move. -/
def ChangeStep.moves : ChangeStep → Bool
  | .d1 => true
  | .d3 => true
  | .d8move => true
  | .p1 => true
  | .p2dock => true
  | .p7move => true
  | _ => false

/-- The segment is the move of the change's step. -/
def State.moveFits (s : State) (a : Arm) (c : Change) (r : SegReq) : Prop :=
  r.kind = .changeMove ∧ c.step.moves = true ∧ s.stepFits a c c.step

/-- The resume point of an arm in a change is a step of it, or the move or the zone claim of its step (R117). -/
def State.resumeFits (s : State) (a : Arm) (c : Change) : ResumePoint → Prop
  | .changeStep st => s.stepFits a c st
  | .segment r => s.moveFits a c r
  | .zones r => s.moveFits a c r
  | _ => False

/-- An arm in a change is at a step of it or in the move of one, or stands with a resume point of it. -/
def State.changeFits (s : State) (a : Arm) (c : Change) : Prop :=
  (match s.doing a with
    | .changing _ => s.stepFits a c c.step
    | .zoneWait r _ _ => s.moveFits a c r
    | .driveWait r _ _ _ => s.moveFits a c r
    | .inFlight g => s.moveFits a c g.req
    | .ending _ _ => True
    | .nothing => s.resetting = true ∨ (s.arm a).mot.resume ≠ none
    | _ => False) ∧
  (s.resetting = true ∨ ∀ r, (s.arm a).mot.resume = some r → s.resumeFits a c r)

/-- A probe's location, the port records and the head occupancies describe one fact (R87), and a context is NONE exactly where the head
carries no known probe (R88); and, between two commands, what a change and a SET_LOCATION in progress build on: the arm in a change has a
plan and holds the rack, its step fits what lies on the head and in the port, a change step as resume point belongs to a change, and the
head of an arm in the supply or identity step of a SET_LOCATION carries no probe. -/
structure State.ProbesAgree (s : State) : Prop where
  ports : ∀ p n, n < 16 → ((s.rack.port n).probe = some p ↔ (s.probe p).location = .port n)
  heads : ∀ p a, (s.arm a).head.occ = .probe p ↔ (s.probe p).location = .arm a
  contexts : ∀ a, (s.arm a).head.ctx.state = .none ↔ (s.arm a).head.occ = .empty ∨ (s.arm a).head.occ = .unidentified
  change : ∀ a c, (s.arm a).change = some c → s.rack.holder = some a ∧ s.hasPlan a = true ∧ (s.arm a).mot.state ≠ .waking ∧ s.changeFits a c
  resume : ∀ a st, (s.arm a).mot.resume = some (.changeStep st) → (s.arm a).change.isSome = true
  locating : ∀ a i d, s.doing a = .locating i d → (s.arm a).head.occ = .empty ∨ (s.arm a).head.occ = .unidentified

/-! ### Tables that stay apart -/

/-- A loaded descriptor is within its ranges, and its region within the 4,096 nodes (R155). -/
def MapDesc.inRange (d : MapDesc) : Prop := 12 ≤ d.m ∧ d.m ≤ 26 ∧ 2 ≤ d.count ∧ d.count ≤ 1024 ∧ d.base + d.count ≤ 4096

/-- The regions of loaded maps are in range and do not overlap (R155). -/
def MapStore.RegionsApart (m : MapStore) : Prop :=
  (∀ a i j d, m.desc a i j = some d → d.inRange) ∧
    ∀ a i j d a' i' j' d', m.desc a i j = some d → m.desc a' i' j' = some d' → (a, i, j) ≠ (a', i', j') →
      d.base + d.count ≤ d'.base ∨ d'.base + d'.count ≤ d.base

/-- The pages of an arm's chain. -/
def State.chainPages (s : State) (a : Arm) : List Nat := (s.arm a).wr.chain.map (fun c => c.page)

/-- No page stands twice in the view or in a chain, and none in two of the view and the two chains (R172). -/
structure State.PagesApart (s : State) : Prop where
  view : s.view.Nodup
  chain : ∀ a, (s.chainPages a).Nodup
  free : ∀ a, ∀ p ∈ s.chainPages a, p ∉ s.view
  arms : ∀ p ∈ s.chainPages .A, p ∉ s.chainPages .B

/-! ### Two states apart from the status block -/

/-- The state without what a rewrite of the status block changes. -/
def State.apart (s : State) : State := { s with mem := [], sections := [], reports := [] }

/-- `t` is `u` with sections of its status block rewritten or marked: every register, table, timer and counter is as in `u`, and so is
every byte of the exchange memory outside the status block's sections. -/
structure ShownFrom (u t : State) : Prop where
  state : t.apart = u.apart
  bytes : ∀ a, statusEnd ≤ a → readByte t.mem a = readByte u.mem a

/-! ### Where an arm's work goes on -/

/-- ARM_CMD naming one arm. -/
def selOf : Arm → ArmSel
  | .A => .armA
  | .B => .armB

/-- With its executor at `e`, the arm's fetch finds the item `i`, `len` bytes long, and nothing that ends the plan: the slot is TAKEN
and not withdrawn, a library slot still LIBRARY, the header checks that are due pass, the end of the items is not reached, the item is
valid, and the arm is homed for a motion item (R27 to R31). -/
structure Fetches (s : State) (a : Arm) (e : Executor) (i : Item) (len : Nat) : Prop where
  plan : ∃ p, e.plan = some p ∧ tagIs s (slotBase p.slot) tagTaken = true ∧ withdrawSet s.mem p.slot = false ∧ headerFails e p = false
  library : e.stack = [] ∨ tagIs s (slotBase e.slot) tagLibrary = true
  more : e.offset ≠ e.slotLen
  item : decodeItem s.mem e.slot e.offset (e.slotLen - e.offset) = .inr (i, len)
  homed : i.isMotion = true → (s.arm a).scale.homed = true

/-- The state with the arm's executor at `e` and the item handed on: RUNNING, no resume point. -/
def State.handing (s : State) (a : Arm) (e : Executor) (i : Item) (len : Nat) : State :=
  (s.modExec a (fun _ => { e with headerDue := false, policyDue := false, item := some i, itemLen := len })).modMot a (fun m =>
    { m with state := .running, doing := .handed, resume := none })

/-- The completion of the arm's item in `s` goes on with the fetch of the item `i`: no HOLD waits for the boundary, and the arm is in
none of the states in which the fetch waits for a RESUME (R26). -/
structure Completing (s : State) (a : Arm) (i : Item) (len : Nat) : Prop where
  goes : (s.arm a).mot.state = .running ∨ (s.arm a).mot.state = .homing
  noHold : (s.arm a).mot.holdPending = false
  fetches : Fetches s a (itemDone (s.arm a).exec) i len

/-- The state in which the item has completed and the next one is handed on (R26, R34, R41). -/
def State.completed (s : State) (a : Arm) (i : Item) (len : Nat) : State := s.handing a (itemDone (s.arm a).exec) i len

/-- The arm waits for no zone. -/
def State.noZoneWait (s : State) (a : Arm) : Prop := ∀ r need t, s.doing a ≠ .zoneWait r need t

/-- A segment start that is neither a HOME search nor a pass or a leg meets nothing in its way: the target is within the soft limits,
every needed zone is free or the arm's own, and the probe on the head is present and permitted (R53). -/
structure StartsFreely (s : State) (a : Arm) (r : SegReq) : Prop where
  kind : r.kind.isHome = false ∧ r.kind.isProbing = false
  limits : targetInLimits s a r.target = true
  zones : claimable s.zones a (neededSet s a r) = true
  probe : refreshFaultOf s a r.kind = none

/-- The state with a segment in flight from the arm's position at this feed: the profile begins, and with a leg's the sample timer unless it
runs on (R53 step 6, R55, R131). -/
def State.inAir (s : State) (a : Arm) (r : SegReq) (f : Nat) : State :=
  s.setArm a { s.arm a with
    cap := { (s.arm a).cap with
      sampleTimer := (match (s.arm a).cap.sampleTimer, (s.arm a).cap.item with
        | none, some (.scan g) => if r.kind.isLeg then some { start := s.now, len := g.period } else none
        | x, _ => x) }
    mot := { (s.arm a).mot with
      state := .running, stop := none, commanded := none
      doing := .inFlight { req := r, start := s.position a, effective := f,
                           profile := .path (profileOf (s.inst.axes.get a) (s.position a) r.target f), marked := false, begun := s.now } } }

/-- The state in which a start has enabled the arm's drives, all three together, with the scale position as their commanded position, and
awaits their ready reports for 1,000 ms (R53 step 5, R59, R60). -/
def State.enabling (s : State) (a : Arm) (r : SegReq) (f : Nat) : State :=
  { (s.modCap a (fun c => { c with sampleTimer := none })).modMot a (fun m =>
    { m with
      state := .running, drives := Axes.all3 true, commanded := some (s.position a)
      doing := .driveWait r f (Axes.all3 false) { start := s.now, len := 1000000 } }) with
    out := s.out ++ [.enableDrives a] }

/-- The segment is in flight, or its drives are enabled first where they are off (R53 steps 5 and 6). -/
def State.takesOff (s : State) (a : Arm) (r : SegReq) (f : Nat) : State := if drivesOn s a then s.inAir a r f else s.enabling a r f

/-- The state with a segment started from the arm's position: the zones of the needed set are the arm's, the context is refreshed, the
effective feed is fixed and a clamp counted, and the segment takes off (R53, R54, R77, R90). -/
def State.flying (s : State) (a : Arm) (r : SegReq) : State :=
  let t := refresh a { s with zones := grantZones a (neededSet s a r) s.zones }
  let f := effectiveFeed t a r
  ((countClamp a (decide (f < r.feed)) t).setResume a none).takesOff a r f

/-- A lone posting (R22): slot `n` is POSTED for arm `a` and no other slot is POSTED; no tag or header is in error, and neither arm
waits for anything that the scan could end. -/
structure LonePosting (s : State) (n : Nat) (a : Arm) : Prop where
  scanning : s.scanning = true
  slot : n < slotCount
  posted : readTag s.mem (slotBase n) = tagPosted
  arm : slotArm s.mem n = some a
  others : ∀ k, k < slotCount → k ≠ n → readTag s.mem (slotBase k) ≠ tagPosted
  slots : ∀ k, k < slotCount → slotError s.mem k = none
  pages : ∀ k, k < pageCount → pageError s.mem k = none
  waits : ∀ b, waits (s.arm b).mot = false ∧ (s.arm b).wr.waiting = none

/-- A posting that a scan comes to take, or leaves for its arm's sake (R22, R23): slot `n` is the lowest POSTED slot of arm `a` at distance 0;
every other POSTED slot is one of the arm's at distance 0 behind it, or is parked at a distance of 1 to 32,767; no tag or header is in error,
and neither arm waits for anything that the scan could end. -/
structure FirstPosting (s : State) (n : Nat) (a : Arm) : Prop where
  scanning : s.scanning = true
  slot : n < slotCount
  posted : readTag s.mem (slotBase n) = tagPosted
  arm : slotArm s.mem n = some a
  due : BitVec.ofNat 16 (slotSeq s.mem n) = (s.arm a).expected
  others : ∀ k b, k < slotCount → k ≠ n → readTag s.mem (slotBase k) = tagPosted → slotArm s.mem k = some b →
    let d := (BitVec.ofNat 16 (slotSeq s.mem k) - (s.arm b).expected).toNat
    (b = a ∧ n < k ∧ d = 0) ∨ (1 ≤ d ∧ d ≤ 32767)
  slots : ∀ k, k < slotCount → slotError s.mem k = none
  pages : ∀ k, k < pageCount → pageError s.mem k = none
  waits : ∀ b, waits (s.arm b).mot = false ∧ (s.arm b).wr.waiting = none

/-- A scan that finds nothing to report and nothing to take: every tag known, no slot POSTED. -/
structure QuietScan (s : State) : Prop where
  scanning : s.scanning = true
  slots : ∀ n, n < slotCount → slotError s.mem n = none ∧ readTag s.mem (slotBase n) ≠ tagPosted
  pages : ∀ n, n < pageCount → pageError s.mem n = none

/-- The state after a scan has ended and replaced the view, a pending scan having started (R4, R171). -/
def State.swept (s : State) : State := { s with scanning := s.scanPending, scanPending := false, view := givenPages s }

/-- An exchange-area error is reported: where its code or offset differs from what AREA_ERROR holds, both are replaced and AREA_FAULT is
set (R10). -/
def State.noted (s : State) (k : AreaCode) (o : Nat) : State :=
  if s.areaCode ≠ k ∨ s.areaOffset ≠ BitVec.ofNat 22 o then
    { s with areaCode := k, areaOffset := BitVec.ofNat 22 o, cause := s.cause ||| causeWord .areaFault }
  else s

/-- What a runtime fault finds when it is taken at rest and its code is shown: the arm is neither in ESTOP nor FAULTED, nor was FAULTED
when an emergency stop came (R57, R69). -/
structure State.Unfaulted (s : State) (a : Arm) : Prop where
  moving : (s.arm a).mot.state ≠ .estop
  sound : (s.arm a).mot.state ≠ .faulted
  before : (s.arm a).mot.estopFaulted = false

/-- The state in which an arm has taken a runtime fault at rest: FAULTED with its last fault code and its resume point, ARM_FAULT set, the
drives off after the three faults that switch them off (R57, R60); a HOLD that waits is dropped (notes/assumptions/71.md), and the position
shown stays (notes/assumptions/75.md). -/
def State.faultedAt (s : State) (a : Arm) (f : FaultCode) (r : ResumePoint) : State :=
  { (s.modCap a (fun c => { c with sampleTimer := none })).modMot a (fun m =>
    { m with
      state := .faulted, doing := .nothing, stop := none, resume := some r, lastFault := f, wakeTimer := none, holdPending := false
      drives := if f = .followingError ∨ f = .driveFault ∨ f = .scaleFault then Axes.all3 false else m.drives }) with
    cause := s.cause ||| causeWord .armFault }

/-- The fault is the arm's last fault code and ARM_FAULT is set; SCALE_FAULT is kept while the arm is FAULTED by it, or has a plan with which it
will be at the release of the E-stop (R48, R57; notes/assumptions/31.md). -/
def State.recorded (s : State) (a : Arm) (f : FaultCode) : State :=
  { s.modMot a (fun m =>
    { m with
      lastFault := if m.lastFault = .scaleFault ∧ (m.state = .faulted ∨ (m.estopFaulted = true ∧ s.hasPlan a = true)) then .scaleFault
        else f }) with
    cause := s.cause ||| causeWord .armFault }

/-- The stop of a segment in flight takes on a runtime fault that leaves the drives on: a HOLD is dropped, and SCALE_FAULT is kept (R48, R57). -/
def Stop.faulted (f : FaultCode) (st : Stop) : Stop :=
  { st with hold := false, fault := some (if st.fault = some .scaleFault then .scaleFault else f) }

/-- The state in which the segment in flight has begun to stop for a runtime fault; the drives are switched off at rest after the three
faults that do so (R56, R57, R60, R134). -/
def State.stoppingFor (s : State) (a : Arm) (f : FaultCode) : State :=
  (s.modCap a (fun c => { c with sampleTimer := none })).modMot a (fun m =>
    { m with
      stop := some { hold := false, ending := none, fault := some f,
                     drivesOff := decide (f = .followingError ∨ f = .driveFault ∨ f = .scaleFault), reset := false } })

/-- A start of a probing segment whose zones are the arm's meets nothing in its way: the probe on the head is present and permitted, no
shadow is open, and the checks of R91 and R124 pass. -/
structure ProbesFreely (s : State) (a : Arm) (r : SegReq) : Prop where
  kind : r.kind.isProbing = true
  probe : refreshFault s a = none
  shadow : (s.arm a).head.shadow = none
  checks : probingStartFault (refresh a s) a r.kind.isLeg = none

/-- The state with a probing segment started, its zones being the arm's: the context refreshed, its orientation selected and copied, the
feed fixed and a clamp counted, and the segment takes off (R53, R54, R91, R131, R135). -/
def State.probing (s : State) (a : Arm) (r : SegReq) : State :=
  let h := selectOrient a (refresh a s)
  let f := effectiveFeed h a r
  let u := countClamp a (decide (f < r.feed)) h
  (u.modCap a (fun c => { c with ctx := (u.arm a).head.ctx })).takesOff a r f

/-- PASS1 or PASS2 of a TOUCH from S toward E, at its feed (R75, R125). -/
def passTo (k : SegKind) (s e : Vec3) (feed : Nat) : SegReq := { kind := k, target := e, feed := feed, sweep := [s, e] }

/-- The state with a record placed in page `q`, the arm's one page, which has room: the record's 64 bytes, the page's count and with its
first record the sequence number of it, the writer's numbers and counts; the 63rd record closes the page (R174, R175, R179); the
records written wrap (notes/assumptions/77.md). -/
def State.withRecord (s : State) (a : Arm) (p : Plan) (q : ChainPage) (r : RecordData) : State :=
  let base := pageBase q.page
  let seq := (s.arm a).wr.recSeq
  let full := decide (q.count + 1 = 63)
  let m := writeBytes (writeBytes s.mem (base + 64 + 64 * q.count) (recordBytes a p seq r)) (base + 10) (leBytes 2 (q.count + 1))
  let m := if q.count = 0 then writeBytes m (base + 16) (leBytes 4 seq.toNat) else m
  { s.modWr a (fun w =>
    { w with
      grant := w.grant.map (fun n => n - 1)
      recSeq := w.recSeq + 1
      counts := { w.counts with
        written := (w.counts.written + 1) % 2 ^ 32, firstPage := some (w.counts.firstPage.getD q.page), lastPage := some q.page
        envMin := if r.kind = .touch ∨ r.kind = .scan then tempMin w.counts.envMin r.dtPart else w.counts.envMin
        envMax := if r.kind = .touch ∨ r.kind = .scan then tempMax w.counts.envMax r.dtPart else w.counts.envMax }
      lastKept := some q.page
      chain := if full then [] else [{ q with count := q.count + 1 }] }) with
    mem := if full then writeTag m base tagFilled else m
    cause := if full then s.cause ||| causeWord .pageClosed else s.cause }

/-- The arm's chain is one page with room, tagged FILLING. -/
structure OnePage (s : State) (a : Arm) (q : ChainPage) : Prop where
  chain : (s.arm a).wr.chain = [q]
  room : q.count ≤ 62
  filling : readTag s.mem (pageBase q.page) = tagFilling

/-- The state with page `q` of the view reserved as the one page of the arm's chain: it leaves the view, is tagged FILLING, and its header
names arm, slot and sequence number, with count 0, no next page and reserved bytes 0 (R172, R182). -/
def State.reserved (s : State) (a : Arm) (p : Plan) (q : Nat) : State :=
  { s.modWr a (fun w => { w with chain := [{ page := q, count := 0 }] }) with
    view := s.view.filter (fun x => x ≠ q)
    mem := writeBytes (writeBytes (writeTag s.mem (pageBase q) tagFilling) (pageBase q + 4)
      (leBytes 1 (armCode a) ++ [0] ++ leBytes 2 p.slot ++ leBytes 2 p.seq ++ [0, 0] ++ [0xFF, 0xFF] ++ [0, 0])) (pageBase q + 20) (zeros 44) }

/-- A page whose tag still reads GIVEN, so that the conditional write that reserves it succeeds (R3, R172). -/
def State.gives (s : State) (q : Nat) : Bool := decide (readTag s.mem (pageBase q) = tagGiven)

/-- A room request for `n` records is granted with new pages: the room left does not suffice, the arm's chain is empty or one page with room,
and the pages tried, the lowest of the view, hold as many that are still GIVEN as are needed, the last of them among these (R172). -/
structure State.Reserves (s : State) (a : Arm) (n : Nat) (tried rest : List Nat) : Prop where
  beyond : roomLeft (s.arm a).wr < n
  chain : (s.arm a).wr.chain = [] ∨ ∃ q, OnePage s a q
  view : s.view = tried ++ rest
  rising : s.view.Pairwise (· < ·)
  enough : (tried.filter s.gives).length = pagesNeeded (s.arm a).wr n
  last : ∃ q, tried.getLast? = some q ∧ s.gives q = true

/-- The memory with new pages reserved: each is tagged FILLING, its header names arm, slot and sequence number, with count 0, a link to the
page after it, and reserved bytes 0 (R172, R182). -/
def reservedMem (a : Arm) (p : Plan) : List Nat → Mem → Mem
  | [], m => m
  | q :: t, m => reservedMem a p t (writeBytes (writeBytes (writeTag m (pageBase q) tagFilling) (pageBase q + 4)
      (leBytes 1 (armCode a) ++ [0] ++ leBytes 2 p.slot ++ leBytes 2 p.seq ++ [0, 0] ++ leBytes 2 (t.head?.getD 0xFFFF) ++ [0, 0]))
      (pageBase q + 20) (zeros 44))

/-- The state in which the pages of a list that are not GIVEN any more have been found so, one after another: each is a TAG_CONFLICT (R3, R10). -/
def State.foundTaken (s : State) (tried : List Nat) : State :=
  (tried.filter (fun q => !s.gives q)).foldl (fun u q => u.noted .tagConflict (pageBase q)) s

/-- The state after a reservation in which the pages of `tried` were tried and `rest` remain: those still GIVEN are the arm's, behind the
page that it had, which is linked to the first of them; the others have left the view (R172). -/
def State.reservedAll (s : State) (a : Arm) (p : Plan) (tried rest : List Nat) : State :=
  let new := tried.filter s.gives
  let m := reservedMem a p new s.mem
  { (s.foundTaken tried).modWr a (fun w => { w with chain := w.chain ++ new.map (fun q => { page := q, count := 0 }) }) with
    view := rest
    mem := (match (s.arm a).wr.chain.getLast? with
      | some c => writeBytes m (pageBase c.page + 12) (leBytes 2 (new.head?.getD 0xFFFF))
      | none => m) }

/-- The state in which the one page of the arm's chain has been closed at the end of its plan: its link none, tagged FILLED, PAGE_CLOSED set
(R175, R176). -/
def State.pageClosed (s : State) (a : Arm) (q : Nat) : State :=
  { s.modWr a (fun w => { w with chain := [] }) with
    cause := s.cause ||| causeWord .pageClosed
    mem := writeTag (writeBytes s.mem (pageBase q + 12) [0xFF, 0xFF]) (pageBase q) tagFilled }

/-! ### The end of a plan -/

/-- Around a plan that ends at once: no sample is in flight and none was dropped, the arm has no page and not the rack, and it is neither
WAKING nor in ESTOP. -/
structure State.PlanEnds (s : State) (a : Arm) (p : Plan) : Prop where
  plan : (s.arm a).exec.plan = some p
  sample : (s.arm a).cap.sample = none
  dropped : (s.arm a).cap.dropped = 0
  counts : (s.arm a).wr.counts.dropped ≤ 65535
  chain : (s.arm a).wr.chain = []
  rack : s.rack.holder ≠ some a
  state : (s.arm a).mot.state ≠ .waking ∧ (s.arm a).mot.state ≠ .estop

/-- Besides, the plan's slot is TAKEN and the other arm waits for no zone. -/
structure State.PlanAlone (s : State) (a : Arm) (p : Plan) : Prop extends s.PlanEnds a p where
  taken : readTag s.mem (slotBase p.slot) = tagTaken
  other : s.noZoneWait a.other

/-- The arm without its plan: call stack and repeat state gone, the offset 0, its capture unit and latch emptied, no grant, IDLE with its
idle timer started or UNHOMED, the fault its last fault code (R25, R45, R51, R70, R121, R122). -/
def State.planDropped (s : State) (a : Arm) (f : FaultCode) : State :=
  let r := s.arm a
  let n := (s.inst.arms.get a).idleTimeout
  s.setArm a { r with
    exec := { r.exec with
      plan := none, stack := [], rep := none, pattern := Vec3.zero, headerDue := false, policyDue := false, item := none }
    cap := r.cap.cleared
    scale := { r.scale with latch := none }
    wr := { r.wr with grant := none, waiting := none, chain := [], lastKept := none }
    mot := { r.mot with
      doing := .nothing, stop := none, resume := none, holdPending := false
      lastFault := if f = .none then r.mot.lastFault else f
      state := if r.scale.homed then .idle else .unhomed
      idleTimer := if r.scale.homed then (if n = 0 then none else some { start := s.now, len := n * 1000000 }) else r.mot.idleTimer } }

/-- The checks of a fetch with the executor at `e` that come before the item's own have passed: the slot TAKEN and not withdrawn, a library
slot LIBRARY, lengths and policies as they must be (R27 to R29, R35, R43). -/
structure FetchReaches (s : State) (p : Plan) (e : Executor) : Prop where
  plan : e.plan = some p
  taken : readTag s.mem (slotBase p.slot) = tagTaken
  held : withdrawSet s.mem p.slot = false
  library : e.stack = [] ∨ readTag s.mem (slotBase e.slot) = tagLibrary
  header : e.headerDue = true → e.slotLen ≤ 4032 ∧ e.slotLen % 8 = 0
  policies : e.policyDue = true → ∀ c ∈ [p.miss, p.expiredProbe, p.expiredTemp], c = 1 ∨ c = 2

/-- The state in which an arm's plan has ended: its outcome is written, the slot tagged DONE and PLAN_DONE set (R45, R180). -/
def State.planEnded (s : State) (a : Arm) (p : Plan) (o : PlanOutcome) (f : FaultCode) : State :=
  let e := (s.arm a).exec
  { s.planDropped a f with
    cause := s.cause ||| causeWord .planDone
    mem := writeTag (writeBytes s.mem (slotBase p.slot + 32) (outcomeBytes o f e.itemsDone e.feedsClamped (s.arm a).wr.counts))
      (slotBase p.slot) tagDone }

/-- The state in which an arm's plan has ended whose slot the host had tagged anew: the outcome is written, but the DONE write fails and is
reported, and PLAN_DONE is not set (R3, R45). -/
def State.planUnwritten (s : State) (a : Arm) (p : Plan) (o : PlanOutcome) (f : FaultCode) : State :=
  let e := (s.arm a).exec
  ({ s.planDropped a f with
    mem := writeBytes s.mem (slotBase p.slot + 32) (outcomeBytes o f e.itemsDone e.feedsClamped (s.arm a).wr.counts) } : State).noted
      .tagConflict (slotBase p.slot)

/-- The state in which a homed arm keeps only the zones that its envelope box intersects (R83). -/
def State.released (s : State) (a : Arm) : State :=
  { s with
    zones := if (s.arm a).scale.homed then
      s.zones.map (fun z => if z.holder = some a ∧ meetsZone (envelope s a) z = false then { z with holder := none } else z) else s.zones }

/-- The state in which the change of the rack's holder has ended with its plan: a pending lock or release step answered, a supply step's
supply switched off, every lid that the change opened and that does not report CLOSED commanded closed, the rack free (R117, R118). -/
def State.changeEnded (s : State) (a : Arm) (c : Change) : State :=
  let coupling : List LinkOut := if c.step = .p3lock ∨ c.step = .p3unlock then [.release a] else if c.step = .d5 then [.lock a] else []
  let supply := decide (c.step = .p5 ∨ c.step = .p6)
  let switched := supply && (s.arm a).head.supplyOn
  { (s.modHead a (fun h =>
      if supply then { h with supplyOn := false, supplyChecked := false, ctx := { h.ctx with state := .unpowered } } else h)).setChange a
        none with
    rack := { s.rack with holder := none }
    out := s.out ++ coupling ++ (if switched then [.supply a false] else []) ++
      (c.opened.filter (fun n => decide ((s.rack.port n).lid ≠ .closed))).map LinkOut.closeLid }

/-! ### Commands and events that reach an arm -/

/-- The arm with a resume point that a RESUME carries out: HELD, or FAULTED by anything but SCALE_FAULT (R65), its plan's end not awaiting a
sample (R46, R134). -/
structure Resumes (s : State) (a : Arm) (r : ResumePoint) : Prop where
  state : (s.arm a).mot.state = .held ∨ ((s.arm a).mot.state = .faulted ∧ (s.arm a).mot.lastFault ≠ .scaleFault)
  goesOn : ∀ o f, s.doing a ≠ .ending o f
  point : (s.arm a).mot.resume = some r

/-- The segment in flight begins to stop, or its stop takes on a further reason; sampling ends (R56, R134). -/
def State.stopping (s : State) (a : Arm) (f : Stop → Stop) : State :=
  (s.modCap a (fun c => { c with sampleTimer := none })).modMot a (fun m => { m with stop := some (f (m.stop.getD Stop.plain)) })

/-- The arm stands in a state with a resume point; sampling has ended. -/
def State.standing (s : State) (a : Arm) (st : ArmState) (r : ResumePoint) : State :=
  (s.modCap a (fun c => { c with sampleTimer := none })).modMot a (fun m => { m with state := st, doing := .nothing, resume := some r })

/-- The state in which the arm is the waiter of no zone (R82). -/
def State.unwaiting (s : State) (a : Arm) : State :=
  { s with zones := s.zones.map (fun z => if z.waiter = some a then { z with waiter := none, waitStart := none } else z) }

/-- A HOLD reaches an arm that flies, dwells or has no plan: it stops, is HELD with its time left, or ignores it, counted (R8, R64). -/
def State.heldBy (s : State) (a : Arm) : State :=
  if s.hasPlan a = false then { s with ignoredCmds := s.ignoredCmds + 1 }
  else
    match s.doing a with
    | .inFlight _ => s.stopping a (fun st => { st with hold := true })
    | .dwelling d => s.standing a .held (.dwell (d.len - (s.now - d.start).toNat))
    | _ => s

/-- What `State.heldBy` speaks of. -/
def State.HoldPlain (s : State) (a : Arm) : Prop :=
  s.hasPlan a = false ∨
    (((s.arm a).mot.state = .running ∨ (s.arm a).mot.state = .homing) ∧ (s.arm a).mot.stop = none ∧
      ((∃ g, s.doing a = .inFlight g) ∨ ∃ d, s.doing a = .dwelling d))

/-- The arm's idle timer ends, and its standby request is withdrawn where it stands (R70). -/
def State.roused (s : State) (a : Arm) : State :=
  { s.modMot a (fun m => { m with idleTimer := none, standby := false }) with
    out := s.out ++ if (s.arm a).mot.standby then [.standbyWithdrawn a] else [] }

/-- The arm enters ESTOP: wake timer and a waiting HOLD end, and it is kept whether it was FAULTED (R68, R69). -/
def State.inEstop (s : State) (a : Arm) : State :=
  s.modMot a (fun m => { m with state := .estop, wakeTimer := none, holdPending := false, estopFaulted := decide (m.state = .faulted) })

/-- The arm's drives are off. -/
def State.undriven (s : State) (a : Arm) : State := s.modMot a (fun m => { m with drives := Axes.all3 false })

/-- What an arm's activity leaves when an emergency stop ends it: the change of the state besides the arm's rest, and the resume point. -/
inductive EstopEnds (s : State) (a : Arm) : (State → State) → ResumePoint → Prop
  | standing : s.doing a = .nothing → EstopEnds s a id ((s.arm a).mot.resume.getD .boundary)
  | fetched (i : Item) : handedItem s a = some i → i.runsOut = false → EstopEnds s a id .item
  | dwell (d : Timer) : s.doing a = .dwelling d → EstopEnds s a id (.dwell (d.len - (s.now - d.start).toNat))
  | zones (r : SegReq) (need : List Nat) (d : Option Timer) : s.doing a = .zoneWait r need d → EstopEnds s a (fun u => u.unwaiting a) (.zones r)
  | rack (d : Timer) : s.doing a = .rackWait d → s.rack.waiter = some a →
      EstopEnds s a (fun u => { u with rack := { u.rack with waiter := none } }) .rack
  | room : s.doing a = .roomWait → EstopEnds s a (fun u => u.modWr a (fun w => { w with waiting := none })) .room
  | index (d : Timer) : s.doing a = .indexing d → EstopEnds s a (fun u => { u with out := u.out ++ [.halt a] }) .item
  | shadow (r : SegReq) : s.doing a = .shadowWait r → r.kind.isHome = false → EstopEnds s a id (.segment r)
  | drives (r : SegReq) (f : Nat) (ready : Axes Bool) (d : Timer) : s.doing a = .driveWait r f ready d → r.kind.isHome = false →
      EstopEnds s a id (.segment r)
  | homeDrives (r : SegReq) (rest : List Axis) (f : Nat) (ready : Axes Bool) (d : Timer) : s.doing a = .driveWait r f ready d →
      r.kind = .home rest → EstopEnds s a id (.home rest)
  | sample (r : SegReq) : s.doing a = .awaitSample r → EstopEnds s a id (.segment r)
  | step (c : Change) (d : Timer) : s.doing a = .changing d → (s.arm a).change = some c → c.step ≠ .p5 → c.step ≠ .p6 →
      EstopEnds s a id (.changeStep (if c.step = .p3unlock then .p3lock else if c.step = .p7confirm then .p7move else c.step))
  | supply (c : Change) (d : Timer) (q : Nat) : s.doing a = .changing d → (s.arm a).change = some c → c.step = .p5 ∨ c.step = .p6 →
      (s.arm a).head.supplyOn = true → (s.arm a).head.occ = .probe q →
      EstopEnds s a (fun u =>
        { u.modHead a (fun h => { h with supplyOn := false, supplyChecked := false, ctx := { h.ctx with state := .unpowered } }) with
          out := u.out ++ [.supply a false] }) (.changeStep .p5)
  | unsupplied (c : Change) (d : Timer) (q : Nat) : s.doing a = .changing d → (s.arm a).change = some c → c.step = .p6 →
      (s.arm a).head.supplyOn = false → (s.arm a).head.occ = .probe q →
      EstopEnds s a (fun u => u.modHead a (fun h => { h with ctx := { h.ctx with state := .unpowered } })) (.changeStep .p6)

/-- What an arm's activity leaves when a runtime fault ends it at rest: as at an emergency stop, but a DWELL, also one that a HOLD paused, is
run again for its whole time (R62), a fetched item is its own resume point, and a SET_LOCATION in its supply or identity step is abandoned, its supply switched off (R95,
R101, R117). -/
inductive FaultEnds (s : State) (a : Arm) : (State → State) → ResumePoint → Prop
  | dwell (d : Timer) : s.doing a = .dwelling d → FaultEnds s a id .item
  | paused (n : Nat) : s.doing a = .nothing → (s.arm a).mot.resume = some (.dwell n) → FaultEnds s a id .item
  | fetched : s.doing a = .handed → FaultEnds s a id .item
  | locating (identity : Bool) (d : Timer) : s.doing a = .locating identity d → (s.arm a).head.supplyOn = true →
      FaultEnds s a (fun u =>
        { u.modHead a (fun h => { h with supplyOn := false, supplyChecked := false }) with out := u.out ++ [.supply a false] }) .item
  | other (w : State → State) (r : ResumePoint) : EstopEnds s a w r → (∀ n, r ≠ .dwell n) → s.doing a ≠ .handed → FaultEnds s a w r

/-- R101: the resume point that an overcurrent leaves where the activity in progress has given a point. A MOVE whose start awaits its drives, or
at which the arm is HELD, and an item fetched but not begun are left to the boundary; a DWELL and a HEAD are done again (R62, R98); a shadow
wait leaves its segment, and a phase of a TOUCH or SCAN, the axis of a HOME, the move of a change, a step or a wait stays the point, as R63,
R115, R117, R122 and R134 name it for a runtime fault (notes/assumptions/13.md, notes/assumptions/59.md). -/
inductive OvercurrentLeaves (s : State) (a : Arm) : ResumePoint → ResumePoint → Prop
  | move (q : SegReq) : q.kind = .move → s.doing a = .nothing ∨ (∃ f ready d, s.doing a = .driveWait q f ready d) →
      OvercurrentLeaves s a (.segment q) .boundary
  | fetched (i : Item) : (s.arm a).exec.item = some i → s.doing a = .nothing ∨ s.doing a = .handed → (∀ n, i ≠ .dwell n) →
      (∀ x y, i ≠ .head x y) → OvercurrentLeaves s a .item .boundary
  | again (i : Item) : (s.arm a).exec.item = some i → (∃ n, i = .dwell n) ∨ (∃ x y, i = .head x y) → OvercurrentLeaves s a .item .item
  | activity (d : Timer) : s.doing a = .dwelling d ∨ s.doing a = .indexing d → OvercurrentLeaves s a .item .item
  | shadow (q : SegReq) : s.doing a = .shadowWait q → OvercurrentLeaves s a (.segment q) (.segment q)
  | phase (q : SegReq) : q.kind ≠ .move → OvercurrentLeaves s a (.segment q) (.segment q)
  | keeps (r : ResumePoint) : r ≠ .item → (∀ q, r ≠ .segment q) → OvercurrentLeaves s a r r

/-- What an emergency stop makes of an arm, by what the arm was doing (R68, R70; R82, R98, R107, R117, R123). -/
inductive EstopTurn (s : State) (a : Arm) : (State → State) → Prop
  /-- In ESTOP it stays as it is. -/
  | stays : (s.arm a).mot.state = .estop → EstopTurn s a id
  /-- Without a plan: drives and timers off. -/
  | unplanned : s.hasPlan a = false → (s.arm a).mot.state ≠ .estop → EstopTurn s a (fun u => ((u.roused a).undriven a).inEstop a)
  /-- In flight: it begins to stop, the drives to be switched off at rest. -/
  | flying (g : Segment) : s.doing a = .inFlight g → (s.arm a).mot.state ≠ .estop →
      EstopTurn s a (fun u => ((u.roused a).stopping a (fun st => { st with hold := false, drivesOff := true })).inEstop a)
  /-- Between the fetch of a non-motion item and its step, or within a SET_LOCATION: the item goes on, the drives are switched off. -/
  | working : s.hasPlan a = true → (s.arm a).mot.state ≠ .estop →
      ((∃ i, handedItem s a = some i ∧ i.runsOut = true) ∨ ∃ i d, s.doing a = .locating i d) →
      EstopTurn s a (fun u => ((u.roused a).undriven a).inEstop a)
  /-- Anything else ends with its resume point, the drives switched off. `w` is what ends with it. -/
  | stands (w : State → State) (r : ResumePoint) : s.hasPlan a = true → (s.arm a).mot.state ≠ .estop → EstopEnds s a w r →
      EstopTurn s a (fun u => (((w (u.roused a)).standing a (s.arm a).mot.state r).undriven a).inEstop a)

/-- The arm at rest leaves ESTOP: with a plan for FAULTED, if it was FAULTED at the assertion or took SCALE_FAULT since, and else HELD;
without one for IDLE, its idle timer started, or UNHOMED (R69, R70). One still stopping stays. -/
def State.leavesEstop (s : State) (a : Arm) : State :=
  let n := (s.inst.arms.get a).idleTimeout
  match s.doing a with
  | .inFlight _ => s
  | _ =>
    s.modMot a (fun m =>
      if s.hasPlan a then { m with state := if m.estopFaulted then .faulted else .held, estopFaulted := false }
      else if (s.arm a).scale.homed then
        { m with state := .idle, estopFaulted := false, idleTimer := if n = 0 then none else some { start := s.now, len := n * 1000000 } }
      else { m with state := .unhomed, estopFaulted := false })

/-! ### Probe changes -/

/-- The arm's change stands at a step that awaits its confirmation. -/
structure AwaitsStep (s : State) (a : Arm) (c : Change) (d : Timer) : Prop where
  doing : s.doing a = .changing d
  change : (s.arm a).change = some c

/-- The change stands at a step that awaits its confirmation for a time in ms; these commands were sent. -/
def State.awaiting (s : State) (a : Arm) (c : Change) (time : Nat) (o : List LinkOut) : State :=
  { s.setArm a { s.arm a with
      change := some c
      mot := { (s.arm a).mot with
        state := .running, doing := .changing { start := s.now, len := time * 1000 }, resume := none } } with
    out := s.out ++ o }

/-- The move to the approach point of a port, or to its dock point, at the arm's maximum feed (R109): machine coordinate = sign × (frame
coordinate − offset) (R73). -/
def rackMove (s : State) (a : Arm) (n : Nat) (dock : Bool) : SegReq :=
  let inArm (v : Vec3) : Vec3 :=
    Axes.of (fun i => ((s.inst.frame.get a).get i).sign * (v.get i - ((s.inst.frame.get a).get i).offset))
  let p := s.rack.port n
  { kind := .changeMove, target := if dock then inArm p.dock else inArm p.approach, feed := (s.inst.arms.get a).maxFeed
    sweep := [inArm p.approach, inArm p.dock] }

/-- The rack is the arm's and its change picks probe `p`: the record stands at P1 for the home port of `p` (R105, R108, R109). -/
def State.picking (s : State) (a : Arm) (p : Nat) : State :=
  ({ s with rack := { s.rack with holder := some a } } : State).setChange a
    (some { target := p, step := .p1, port := (s.probe p).homePort, probe := p, attempts := 0, opened := [], confirm := none })

/-- The head has lost its probe, which is UNKNOWN: supply off, UNIDENTIFIED, its context NONE (R87, R114). -/
def State.headLost (s : State) (a : Arm) : State :=
  s.modHead a (fun h => { h with supplyOn := false, supplyChecked := false, occ := .unidentified, ctx := Context.null })

/-- The ports with the record of a probe taken away (R87). -/
def Rack.without (r : Rack) (p : Nat) : Rack :=
  { r with ports := r.ports.map (fun q => if q.probe = some p then { q with probe := none } else q) }

/-- A location that a SET_LOCATION may not declare, by the table of R94. -/
inductive LocationConflict (s : State) (a : Arm) : Nat → Location → Prop
  | nullElsewhere (l : Location) : (∀ b, l ≠ .arm b) → LocationConflict s a 0 l
  | otherArm (p : Nat) : LocationConflict s a p (.arm a.other)
  | carries (p q : Nat) : (s.arm a).head.occ = .probe q → LocationConflict s a p (.arm a)
  | located (p : Nat) : 1 ≤ p → (s.probe p).location ≠ .unknown → LocationConflict s a p (.arm a)
  | portHeld (p n : Nat) : 1 ≤ p → s.rack.holder = some a.other → LocationConflict s a p (.port n)
  | portLocated (p n : Nat) : 1 ≤ p → (s.probe p).location ≠ .unknown → LocationConflict s a p (.port n)
  | portRecords (p q n : Nat) : 1 ≤ p → (s.rack.port n).probe = some q → LocationConflict s a p (.port n)
  | unknownHeld (p n : Nat) : 1 ≤ p → (s.probe p).location = .port n → s.rack.holder = some a.other → LocationConflict s a p .unknown
  | unknownOther (p : Nat) : 1 ≤ p → (s.probe p).location = .arm a.other → LocationConflict s a p .unknown

/-! ### Rounding and groups -/

/-- `v` is `n / d` rounded to the nearest integer, a value exactly halfway going away from zero (spec/00_scope.md section 6.3). -/
def Rounds (n : Int) (d : Nat) (v : Int) : Prop :=
  2 * (v * d - n).natAbs ≤ d ∧ (2 * (v * d - n).natAbs = d → n.natAbs < (v * d).natAbs)

/-- The group of a role; SPARE has none. -/
def Groups.of (g : Groups) : Role → Group
  | .spare => Group.blank
  | .scale a i => (g.scale.get a).get i
  | .part a => g.part.get a
  | .air => g.air

end Sys2Proof.Machine
end

