-- ==== Sys2Proof/Certificates/Slice0/Obligations.lean ====
section
/-! DEFINITION. The statements for the provers: what the numbered rules of the spec say the LT-62's commands do, over every state of the
right shape. `ShownFrom u t` says that the command's answer `t` is `u` with sections of its status block rewritten, so that `u` states
both the effect and the frame. -/

section

open Sys2Proof Sys2Proof.Machine

/-! ### The machine as a whole -/

/-- A step carries out the command at the front of the queue on the queue's rest. With none waiting the timestamp counts one µs: the
model's choice, notes/assumptions/16.md. -/
def Obligations.StepTakesTheFrontCommand : Prop :=
  (∀ (c : Instr) (rest : List Instr) (s : State), s.pending = c :: rest →
    Sys2Proof.Machine.step s = Sys2Proof.Machine.exec c { s with pending := rest }) ∧
  ∀ s : State, s.pending = [] → Sys2Proof.Machine.step s = .next { s with now := s.now + 1 }

/-- No command faults or is refused, and none touches the queue of waiting commands, which is the model's own (notes/assumptions/17.md): that
POWER_ON keeps it too is the model's choice, notes/assumptions/14.md. -/
def Obligations.EveryCommandAnswersNext : Prop :=
  ∀ (c : Instr) (s : State), s.Shaped → ∃ t, Sys2Proof.Machine.exec c s = .next t ∧ t.pending = s.pending

/-- The state after power-on has the shape, the canonical memory, sound sections, fitting call stacks, sound zone waits, agreeing probe
records, apart tables and nothing left half done. -/
def Obligations.ResetMeetsTheInvariants : Prop :=
  State.reset.Shaped ∧ memWf State.reset.mem = true ∧ State.reset.SectionsSound ∧ State.reset.BetweenCommands ∧
    State.reset.maps.RegionsApart ∧ State.reset.PagesApart ∧ State.reset.StacksFit ∧ State.reset.ZoneWaitsSound ∧ State.reset.ProbesAgree ∧
    State.reset.pending = []

/-- What power-on and a SOFT_RESET leave (R15, R16, R25, R47, R50, R76, R86, R88, R102, R119, R120, R122, R141, R150, R155, R168, R171);
CAUSE is 0 with the E-stop input released, and the ESTOP cause that an asserted input then sets (R68) is stated of the commands themselves.
The fields of entry 0 that R86 does not state (home port, overtravel limit, qualification temperature) are the model's choice,
notes/assumptions/10.md. -/
def Obligations.PowerOnValues : Prop :=
  ∀ (estop : Bool) (signals : PerArm (Axes Bool)), let s := State.blank estop signals
    s.device = .stopped ∧ s.startResult = .none ∧ s.cause = 0 ∧ s.mask = 0 ∧ s.areaCode = .none ∧ s.areaOffset = 0 ∧ s.ignoredCmds = 0 ∧
    s.now = 0 ∧ s.view = [] ∧ (∀ x, s.sectionState x = SectionState.rest 2) ∧
    (∀ a, (s.arm a).mot.state = (if estop then .estop else .unhomed) ∧ (s.arm a).mot.drives = Axes.all3 false ∧
      (s.arm a).mot.lastFault = .none ∧ (s.arm a).expected = 0 ∧ (s.arm a).exec.plan = none ∧ (s.arm a).exec.stack = [] ∧
      (s.arm a).scale.count = Axes.all3 0 ∧ (s.arm a).scale.homed = false ∧ (s.arm a).scale.signal = signals.get a ∧
      (s.arm a).scale.latch = none ∧ (s.arm a).head.occ = .unidentified ∧ (s.arm a).head.orient = none ∧
      (s.arm a).head.ctx = Context.null ∧ (s.arm a).head.supplyOn = false ∧ (s.arm a).head.shadow = none ∧
      (s.arm a).cap.item = none ∧ (s.arm a).cap.phase = .idle ∧ (s.arm a).cap.ignoredTriggers = 0 ∧ (s.arm a).wr.chain = [] ∧
      (s.arm a).wr.grant = none ∧ (s.arm a).wr.recSeq = 0 ∧ (s.arm a).wr.counts = PlanCounts.fresh ∧
      s.maps.parts.get a = { datum := ⟨0, 0, 0⟩, alpha := 0, on := false } ∧ ∀ i j, s.maps.desc a i j = none) ∧
    (∀ z ∈ s.zones, z.inUse = false ∧ z.holder = none ∧ z.waiter = none) ∧ s.zoneTie = .A ∧
    s.rack.holder = none ∧ s.rack.waiter = none ∧ s.rack.tie = .A ∧
    (∀ p ∈ s.rack.ports, p.probe = none ∧ p.occ = .unknown ∧ p.lid = .closed) ∧
    s.probe 0 = Probe.null ∧ (∀ p, 1 ≤ p → p < 32 → s.probe p = Probe.blank) ∧
    (∀ c ∈ s.thermal.chans, c = Chan.blank) ∧ s.thermal.published.groups = Groups.blank ∧ s.thermal.lineStuck = 0 ∧
    s.thermal.overruns = 0

/-- Every step keeps the sizes of the tables and the ranges of the indices (R1, R17, R76, R86, R102, R141, R155), and no call
stack ever exceeds its region (R38). -/
def Obligations.StepKeepsShape : Prop :=
  (∀ s t : State, s.Shaped → Sys2Proof.Machine.step s = .next t → t.Shaped) ∧
  ∀ s t : State, s.StacksFit → Sys2Proof.Machine.step s = .next t → t.StacksFit

/-- Every step keeps the canonical form of the exchange memory. -/
def Obligations.StepKeepsCanonicalMemory : Prop :=
  ∀ s t : State, s.Shaped → memWf s.mem = true → Sys2Proof.Machine.step s = .next t → memWf t.mem = true

/-- Every step leaves each section's counter odd exactly while its rewrite is in progress (R17). -/
def Obligations.StepKeepsSectionsSound : Prop :=
  ∀ s t : State, s.Shaped → s.SectionsSound → Sys2Proof.Machine.step s = .next t → t.SectionsSound

/-- Every step leaves nothing half done (`State.BetweenCommands`), and the waits for zones sound: no arm waits for a zone that is free or
its own, an arm that waits is the waiter of exactly one zone, and never do both arms wait (R77, R78). -/
def Obligations.StepKeepsBetweenCommands : Prop :=
  (∀ s t : State, s.Shaped → s.BetweenCommands → Sys2Proof.Machine.step s = .next t → t.BetweenCommands) ∧
  ∀ s t : State, s.Shaped → s.BetweenCommands → s.ZoneWaitsSound → Sys2Proof.Machine.step s = .next t → t.ZoneWaitsSound

/-- The regions of the loaded maps never overlap and stay within the map memory (R155). -/
def Obligations.StepKeepsMapRegionsApart : Prop :=
  ∀ s t : State, s.Shaped → s.maps.RegionsApart → Sys2Proof.Machine.step s = .next t → t.maps.RegionsApart

/-- No page is ever in two of the view and the two chains (R172), and no probe in two places: location, port records and head occupancies
always describe one fact (R87), and a context is NONE exactly where the head is EMPTY or UNIDENTIFIED (R88). `State.ProbesAgree` adds what a change and a SET_LOCATION in progress build on, so that every step keeps it. -/
def Obligations.StepKeepsPagesApart : Prop :=
  (∀ s t : State, s.Shaped → s.PagesApart → Sys2Proof.Machine.step s = .next t → t.PagesApart) ∧
  ∀ s t : State, s.Shaped → s.BetweenCommands → s.ProbesAgree → Sys2Proof.Machine.step s = .next t → t.ProbesAgree

/-- No command changes a byte of the installation block, of a host area, of a plan slot's header or items (R1). That
the host's bytes survive a power-on is the model's choice, notes/assumptions/14.md. -/
def Obligations.PartWritesOnlyItsBytes : Prop :=
  ∀ (c : Instr) (s t : State), s.Shaped → Sys2Proof.Machine.exec c s = .next t →
    ∀ a, partMayWrite a = false → readByte t.mem a = readByte s.mem a

/-- A command that changes what a section of the status block shows begins its rewrite, with the counter made odd and the new content written,
or marks one further rewrite where one is in progress (R17, R18). So does a RESUME of an arm, RUNNING first, that ends it as FAULTED or HELD
as it was (R18, R65). That the rewrite begins, its content in place and its counter odd, within the command that made the change, and shows
the end of the command, is the model's reading of them, notes/assumptions/43.md. -/
def Obligations.EveryChangeIsShown : Prop :=
  ∀ (c : Instr) (s t : State) (x : Section), s.Shaped → s.reports = [] → Sys2Proof.Machine.exec c s = .next t →
    (∀ e g, c ≠ .powerOn e g) → (∀ y, c ≠ .sectionRewriteComplete y) →
    (t.sectionContent x ≠ s.sectionContent x ∨ (∃ a r, c = .resume (selOf a) ∧ x = (match a with
      | .A => Section.armA
      | .B => Section.armB) ∧ Resumes s a r ∧ s.device = .running ∧ s.resetting = false)) →
      if (s.sectionState x).busy then t.sectionState x = { s.sectionState x with marked := true }
      else t.sectionState x = { counter := (s.sectionState x).counter + 1, busy := true, marked := false } ∧
        readBytes t.mem (sectionBase x) (4 + (t.sectionContent x).length) =
          leBytes 4 ((s.sectionState x).counter + 1).toNat ++ t.sectionContent x

/-- A cause that is set stays set until a CAUSE write, a power-on or the end of a SOFT_RESET (R9). -/
def Obligations.CausesStaySet : Prop :=
  ∀ (c : Instr) (s t : State) (i : Nat), s.Shaped → Sys2Proof.Machine.exec c s = .next t → (∀ v, c ≠ .causeWrite v) →
    (∀ e g, c ≠ .powerOn e g) → c ≠ .softResetComplete → s.cause.getLsbD i = true → t.cause.getLsbD i = true

/-- The installation constants change only at the end of a START's validation; the map store and part settings only by LOAD_MAP,
CLEAR_MAP and SET_PART; MASK only by a MASK write; the timestamp by no command: power-on and the end of a SOFT_RESET apart (R9, R119,
R154). That a command takes no time is the model's choice, notes/assumptions/16.md. -/
def Obligations.OnlyTheirCommandsChangeThem : Prop :=
  ∀ (c : Instr) (s t : State), s.Shaped → Sys2Proof.Machine.exec c s = .next t → (∀ e g, c ≠ .powerOn e g) → c ≠ .softResetComplete →
    ((∀ w, c ≠ .startValidationComplete w) → t.inst = s.inst) ∧
    ((∀ a, c ≠ .loadMap a ∧ c ≠ .clearMap a ∧ c ≠ .setPart a) → t.maps = s.maps) ∧
    ((∀ v, c ≠ .maskWrite v) → t.mask = s.mask) ∧ t.now = s.now ∧
    ((∀ w, c ≠ .startValidationComplete w) → ∀ a, (t.arm a).expected = (s.arm a).expected ∨ c = .tagScan)

/-! ### The exchange port -/

/-- POWER_ON: every block in its power-on state, every section of the status block written with its counter at 2, the exchange memory
outside the status block as it stood (R16); ESTOP is set if the input is asserted (R68). That the rest of the memory keeps its bytes
over a power-on is the model's choice, notes/assumptions/14.md. -/
def Obligations.PowerOnAnswers : Prop :=
  ∀ (estop : Bool) (signals : PerArm (Axes Bool)) (s : State), ∃ t, Sys2Proof.Machine.exec (.powerOn estop signals) s = .next t ∧
    t = { State.blank estop signals with
      cause := if estop then causeWord .estop else 0, mem := t.mem, draws := s.draws, pending := s.pending } ∧
    (∀ x, readBytes t.mem (sectionBase x) (4 + (t.sectionContent x).length) = leBytes 4 2 ++ t.sectionContent x) ∧
    ∀ a, statusEnd ≤ a → readByte t.mem a = readByte s.mem a

/-- START takes a STOPPED device to STARTING, and has no effect in any other state (R12) or during a SOFT_RESET (R15). The end of the
validation at the first field that fails: STOPPED again, the code and offset in AREA_ERROR and as START result, START_DONE set, nothing else
changed (R12). The first field is the one at the lowest offset that is out of its range or breaks a condition judged at it (`InstallBad`;
section 1.5, R183). The envelope boxes of the zone condition are those of the axis constants just read (the model's reading,
notes/assumptions/22.md), and every field is read as the memory stands at the validation's end (the model's choice, notes/assumptions/21.md).
A channel whose enabled byte is neither 0 nor 1 is not judged but at that byte (the model's choice, notes/assumptions/78.md). -/
def Obligations.StartEntersStartingOrFails : Prop :=
  (∀ (s : State) (k : AreaCode) (o : Nat), installFault s = some (k, o) ↔ InstallBad s k o ∧ ∀ k' o', InstallBad s k' o' → o ≤ o') ∧
  ∀ s : State, s.Shaped →
    (∃ t, Sys2Proof.Machine.exec .start s = .next t ∧
      ShownFrom (if s.device = .stopped ∧ s.resetting = false then { s.opened with device := .starting } else s.opened) t) ∧
    ∀ (w : Wire) (k : AreaCode) (o : Nat), s.device = .starting → s.resetting = false → installFault s = some (k, o) →
      ∃ t, Sys2Proof.Machine.exec (.startValidationComplete w) s = .next t ∧
        ShownFrom { s.opened with device := .stopped, areaCode := k, areaOffset := BitVec.ofNat 22 o, startResult := .failed k,
                                  cause := s.cause ||| causeWord .startDone } t

/-- The end of a validation without a fault: the slots and pages are settled, the blocks prepared, RUNNING entered (R13, R21, R25, R85, R122, R171).
CAUSE gains START_DONE, PLAN_DONE if a slot was TAKEN, PAGE_CLOSED if a FILLING page held a record, and nothing else (R13). The constants, zones and
port points are the block's fields by their offsets (section 11.8); each zone in use goes to the homed arm whose envelope box, by the axis constants
just read (the model's reading, notes/assumptions/22.md), meets it (R85); the rack's status request is sent (R102, R103). Every field is read as the
memory stands at the validation's end (the model's choice, notes/assumptions/21.md). Each channel record takes the block's fields and is settled by
the four cases of R142, a disabled channel of an undefined role code being SPARE (notes/assumptions/11.md); a group without an enabled channel becomes
NONE, one that was NONE with an enabled channel is HELD from this START, every other is kept, and all are published, with the part-rate indications
recomputed (R150). -/
def Obligations.StartCompletes : Prop :=
  (∀ m : Mem, ConstsRead m (readConsts m)) ∧
  ∀ (w : Wire) (s : State), s.Shaped → s.device = .starting → s.resetting = false → installFault s = none →
    ∃ t, Sys2Proof.Machine.exec (.startValidationComplete w) s = .next t ∧
      t.device = .running ∧ t.startResult = .ok ∧
      t.cause = (s.cause ||| causeWord .startDone ||| (if (List.range slotCount).any (fun n => readTag s.mem (slotBase n) == tagTaken)
          then causeWord .planDone else 0)) |||
        (if (List.range pageCount).any (fun n =>
            readTag s.mem (pageBase n) == tagFilling && decide (1 ≤ readNat s.mem (pageBase n + 10) 2)) then causeWord .pageClosed else 0) ∧
      t.inst = readConsts s.mem ∧ t.zones.length = 8 ∧ t.rack.holder = none ∧
      (∀ n, n < 8 → let z := t.zones.getD n Zone.blank; let b := 0x81A0 + 64 * n
        (z.inUse = true ↔ readNat s.mem b 1 = 1) ∧ z.speedLimit = readNat s.mem (b + 4) 4 ∧
          z.box = { lo := vecAt s.mem (b + 8), hi := vecAt s.mem (b + 32) } ∧ z.waiter = none ∧
          ∀ a, z.holder = some a ↔ (s.arm a).scale.homed = true ∧ meetsZone (envelope t a) z = true) ∧
      t.rack.waiter = none ∧ t.rack.zone = some (readNat s.mem 0x8400 1) ∧ LinkOut.rackStatusRequest ∈ t.out ∧
      t.rack.statusTimer = some { start := s.now, len := 100000 } ∧ t.rack.statusDue = List.range 16 ∧ t.rack.missed = [] ∧
      (∀ n, n < 16 → t.rack.port n = { s.rack.port n with
        approach := vecAt s.mem (0x8408 + 48 * n), dock := vecAt s.mem (0x8408 + 48 * n + 24) }) ∧
      t.rack.ports.map (fun p => p.probe) = s.rack.ports.map (fun p => p.probe) ∧ t.view = [] ∧ t.scanning = true ∧
      t.scanPending = false ∧ t.rescan = some { start := s.now, len := ms (readConsts s.mem).rescan } ∧
      t.thermal.due = some { start := s.now, len := ms (readConsts s.mem).cyclePeriod } ∧ t.thermal.chans.length = 32 ∧
      (∀ n, n < 32 → let b := 0x8810 + 16 * n; let o := s.chan n; let x := t.chan n
        let got : Chan := { o with
          address := readNat s.mem b 1, role := roleAt (readNat s.mem (b + 1) 1), enabled := readNat s.mem (b + 2) 1 == 1
          alarmLow := signedAt s.mem (b + 4) 2, alarmHigh := signedAt s.mem (b + 6) 2, rateLimit := readNat s.mem (b + 8) 2 }
        let cleared : Chan := { got with misses := 0, low := false, high := false, rateFlag := false }
        let same : Prop := got.address = o.address ∧ got.role = o.role
        (got.enabled = false → x = { cleared with state := .disabled }) ∧
        (got.enabled = true → same → o.state ≠ .disabled → x = got) ∧
        (got.enabled = true → same → o.state = .disabled → o.lastGood ≠ none → x = { cleared with state := .aged }) ∧
        (got.enabled = true → (¬ same ∨ (o.state = .disabled ∧ o.lastGood = none)) →
          x = { cleared with state := .failed, value := 0, lastGood := none, rate := 0 })) ∧
      (∀ r : Role, r ≠ .spare → let g := s.thermal.groups.of r; let g' := t.thermal.groups.of r
        let users := t.thermal.chans.filter (fun c => c.enabled && decide (c.role = r))
        t.thermal.published.groups.of r = g' ∧
        (users = [] → g' = { state := .none, value := 0, spread := 0, spreadFlag := false, holdStart := none }) ∧
        (users ≠ [] → g.state = .none → g' = { state := .held, value := 0, spread := 0, spreadFlag := false, holdStart := some s.now }) ∧
        (users ≠ [] → g.state ≠ .none → g' = g)) ∧
      (∀ a, t.thermal.published.partRate.get a = true ↔
        ∃ c ∈ t.thermal.chans, c.enabled = true ∧ c.role = .part a ∧ c.rateFlag = true) ∧ t.maps = s.maps ∧ t.mask = s.mask ∧
      (∀ a, (t.arm a).expected = 0 ∧ (t.arm a).exec.plan = none ∧ (t.arm a).exec.stack = [] ∧ (t.arm a).wr = Writer.powerOn ∧
        (t.arm a).change = none ∧ (t.arm a).cap.item = none ∧ (t.arm a).scale.latch = none ∧ (t.arm a).mot = (s.arm a).mot ∧
        (t.arm a).head = (s.arm a).head ∧ (t.arm a).scale.homed = (s.arm a).scale.homed) ∧
      (∀ n, n < slotCount → readTag t.mem (slotBase n) =
        if readTag s.mem (slotBase n) = tagTaken then tagDone else readTag s.mem (slotBase n)) ∧
      (∀ n, n < slotCount → readTag s.mem (slotBase n) = tagTaken →
        readBytes t.mem (slotBase n + 32) 32 = outcomeBytes .interrupted .none 0 0 PlanCounts.fresh) ∧
      ∀ n, n < pageCount → readTag t.mem (pageBase n) =
        if readTag s.mem (pageBase n) = tagFilling then (if 1 ≤ readNat s.mem (pageBase n + 10) 2 then tagFilled else tagGiven)
        else readTag s.mem (pageBase n)

/-- STOP in RUNNING: STOPPING, scans and the rescan timer stopped, the thermal cycle abandoned but for the read in progress (R14, R140); in any other
device state no effect. Each arm in flight begins to stop for the end of its plan; one without a plan stays as it is. The plan of an arm that stands
at an item boundary ends STOPPED at once, its zones released by the envelope rule; one whose change awaits a step has its change ended with it (R14,
R72, R83, R117, R118), the unlock wait of P3 being answered as a lock step (the model's reading, notes/assumptions/41.md); the position shown of an
arm that stands is not replaced (the model's reading, notes/assumptions/75.md). STOPPED is entered from STOPPING once both arms are stationary, no
plan is taken and neither arm has a current page (R14). -/
def Obligations.StopBringsToStopped : Prop :=
  ∀ s : State, s.Shaped → s.BetweenCommands →
    let u : State := { s.opened with
      device := .stopping, scanning := false, scanPending := false, rescan := none
      thermal := { s.thermal with cycle := s.thermal.cycle.map (fun c => { c with abandoned := true }), pendingCycle := false, due := none } }
    let stops (v : State) (a : Arm) : State := if s.hasPlan a then v.stopping a (fun st => { st with ending := some .stopped }) else v
    (¬ (s.device = .running ∧ s.resetting = false) → ∃ t, Sys2Proof.Machine.exec .stop s = .next t ∧ ShownFrom s.opened t) ∧
    (s.device = .running → s.resetting = false →
      ((∀ a, s.hasPlan a = true → (∃ g, s.doing a = .inFlight g) ∧ (s.arm a).mot.stop = none) →
        ∃ t, Sys2Proof.Machine.exec .stop s = .next t ∧ ShownFrom (stops (stops u .A) .B) t) ∧
      ∀ a p, s.hasPlan a.other = false →
        (s.doing a = .nothing → (s.arm a).mot.state = .held → (s.arm a).mot.resume = some .boundary → (s.arm a).mot.estopFaulted = false →
          u.PlanAlone a p → ∃ t, Sys2Proof.Machine.exec .stop s = .next t ∧ ShownFrom ((u.planEnded a p .stopped .none).released a) t) ∧
        ∀ c d, AwaitsStep s a c d → (s.arm a).mot.state = .running → (s.arm a).mot.estopFaulted = false → s.rack.holder = some a →
          s.rack.waiter = none → (c.step = .p5 ∨ c.step = .p6 →
            ((s.arm a).head.supplyOn = false → (s.arm a).head.supplyChecked = false) ∧ ∃ q, (s.arm a).head.occ = .probe q) →
          (u.changeEnded a c).PlanAlone a p → ∃ t, Sys2Proof.Machine.exec .stop s = .next t ∧
            ShownFrom (((u.changeEnded a c).planEnded a p .stopped .none).released a) t) ∧
    ∃ t, Sys2Proof.Machine.exec .stoppingComplete s = .next t ∧
      ((s.device = .stopping ∧ s.resetting = false ∧
        (∀ a, (∀ g, s.doing a ≠ .inFlight g) ∧ s.hasPlan a = false ∧ currentPage (s.arm a).wr = none)) →
          ShownFrom { s.opened with device := .stopped } t) ∧
      (¬ (s.device = .stopping ∧ s.resetting = false ∧
        (∀ a, (∀ g, s.doing a ≠ .inFlight g) ∧ s.hasPlan a = false ∧ currentPage (s.arm a).wr = none)) → ShownFrom s.opened t)

/-- SOFT_RESET, in every device state: scans, rescan timer and thermal cycle stop, STATE shows STOPPING, an arm that is moving stops for the
reset, every other activity and wait ends, and the idle timer runs on (R70); the exchange memory outside the status block, the tables, plans
and registers stay (R15). One written during a SOFT_RESET has no effect. That every other activity and wait, its timers but the idle timer and
a waiting room request end at the write is the model's reading, notes/assumptions/33.md. -/
def Obligations.SoftResetBegins : Prop :=
  ∀ s : State, s.Shaped →
    (s.resetting = false → ∃ t, Sys2Proof.Machine.exec .softReset s = .next t ∧ t.device = .stopping ∧ t.resetting = true ∧
      t.scanning = false ∧ t.scanPending = false ∧ t.rescan = none ∧
      t.thermal = { s.thermal with cycle := none, pendingCycle := false, due := none } ∧
      (∀ a, (t.arm a).exec = (s.arm a).exec ∧ (t.arm a).scale = (s.arm a).scale ∧ (t.arm a).head = (s.arm a).head ∧
        (t.arm a).wr.waiting = none ∧ (t.arm a).wr.chain = (s.arm a).wr.chain ∧ (t.arm a).cap.sampleTimer = none ∧
        (t.arm a).mot.idleTimer = (s.arm a).mot.idleTimer ∧
        (∀ g, s.doing a = .inFlight g → t.doing a = .inFlight g ∧
          (t.arm a).mot.stop = some { (s.arm a).mot.stop.getD Stop.plain with reset := true }) ∧
        ((∀ g, s.doing a ≠ .inFlight g) → t.doing a = .nothing) ∧ t.rack.waiter ≠ some a ∧ ∀ z ∈ t.zones, z.waiter ≠ some a) ∧
      t.zones.map (fun z => z.holder) = s.zones.map (fun z => z.holder) ∧ t.rack.holder = s.rack.holder ∧ t.probes = s.probes ∧
      t.maps = s.maps ∧ t.inst = s.inst ∧ t.cause = s.cause ∧ t.mask = s.mask ∧ t.now = s.now ∧ t.ignoredCmds = s.ignoredCmds ∧
      ∀ a, statusEnd ≤ a → readByte t.mem a = readByte s.mem a) ∧
    (s.resetting = true → ∃ t, Sys2Proof.Machine.exec .softReset s = .next t ∧ ShownFrom s.opened t)

/-- The end of a SOFT_RESET, both arms stationary: every block at its power-on state with the inputs as they are read; the rewrite of every
section of the status block is begun, its counter, which goes on, made odd and the reset content written, or is marked where one is in
progress (R15, R17; within the command: the model's reading, notes/assumptions/43.md); no tag and no outcome is written (R15), and the head
supplies are switched off (R100). -/
def Obligations.SoftResetCompletes : Prop :=
  ∀ s : State, s.Shaped → s.resetting = true → (∀ a g, s.doing a ≠ .inFlight g) →
    ∃ t, Sys2Proof.Machine.exec .softResetComplete s = .next t ∧
      t.apart = { State.blank s.estop { a := s.arms.a.scale.signal, b := s.arms.b.scale.signal } with
        cause := if s.estop then causeWord .estop else 0, draws := s.draws, out := t.out, pending := s.pending }.apart ∧
      (∀ a, statusEnd ≤ a → readByte t.mem a = readByte s.mem a) ∧
      (∀ x, (s.sectionState x).busy = false →
        t.sectionState x = { counter := (s.sectionState x).counter + 1, busy := true, marked := false } ∧
        readBytes t.mem (sectionBase x) (4 + (t.sectionContent x).length) =
          leBytes 4 ((s.sectionState x).counter + 1).toNat ++ t.sectionContent x) ∧
      (∀ x, (s.sectionState x).busy = true → t.sectionState x = { s.sectionState x with marked := true }) ∧
      ∀ a, (s.arm a).head.supplyOn = true → LinkOut.supply a false ∈ t.out

/-- NUDGE and the rescan timer's expiry ask for a scan: it starts, or one is pending while a scan is in progress; the timer runs on from its expiry
(R4). A scan that finds no posted slot, no error and no waiting arm replaces the GIVEN view and ends, and a pending one starts (R4, R5, R171). What a
scan cannot make sense of is reported as it is read, slots first: an unrecognised tag of a slot or page as SLOT_TAG or PAGE_TAG at its offset, a
POSTED slot that names no arm as SLOT_HEADER; each replaces AREA_ERROR and sets AREA_FAULT, unless code and offset are those it holds (R6, R10). The
withdraw flag of an arm that waits for zones, the rack or room ends its wait, and its plan ends WITHDRAWN with fault code none (R43, R82, R107, R173),
after a sample still in flight (the model's reading, notes/assumptions/46.md). That a scan is carried out at one moment, slots before pages, is the
model's choice, notes/assumptions/32.md; so is that an expiry which comes before its time does nothing, notes/assumptions/4.md. -/
def Obligations.ScansRunAndReplaceTheView : Prop :=
  ∀ s : State, s.Shaped →
    (∃ t, Sys2Proof.Machine.exec .nudge s = .next t ∧
      ShownFrom (if s.device = .running ∧ s.resetting = false then
        (if s.scanning then { s.opened with scanPending := true } else { s.opened with scanning := true }) else s.opened) t) ∧
    (∀ r, s.rescan = some r → r.len ≤ (s.now - r.start).toNat → ∃ t, Sys2Proof.Machine.exec .rescanTimerExpiry s = .next t ∧
      ShownFrom { s.opened with
        rescan := some { start := r.start + BitVec.ofNat 48 r.len, len := s.inst.rescan * 1000 }
        scanning := true, scanPending := s.scanning || s.scanPending } t) ∧
    ((∀ r, s.rescan = some r → (s.now - r.start).toNat < r.len) → ∃ t, Sys2Proof.Machine.exec .rescanTimerExpiry s = .next t ∧
      ShownFrom s.opened t) ∧
    (s.BetweenCommands → s.scanning = true →
      (∀ n, n < slotCount → slotError s.mem n = none ∧ readTag s.mem (slotBase n) ≠ tagPosted) →
      (∀ n, n < pageCount → pageError s.mem n = none) → (∀ a, waits (s.arm a).mot = false ∧ (s.arm a).wr.waiting = none) →
      ∃ t, Sys2Proof.Machine.exec .tagScan s = .next t ∧
        ShownFrom { s.opened with
          scanning := s.scanPending, scanPending := false
          view := (List.range pageCount).filter (fun p => readTag s.mem (pageBase p) == tagGiven && !inChain s p) } t) ∧
    (s.BetweenCommands → s.scanning = true → (∀ a, waits (s.arm a).mot = false ∧ (s.arm a).wr.waiting = none) →
      let nameless (n : Nat) : Prop := readNat s.mem (slotBase n + 4) 1 ≠ 1 ∧ readNat s.mem (slotBase n + 4) 1 ≠ 2
      (∀ n, n < slotCount → readTag s.mem (slotBase n) = tagPosted → nameless n) →
      let slotBad (n : Nat) : List (AreaCode × Nat) :=
        if readTag s.mem (slotBase n) ∉ [tagFree, tagPosted, tagLibrary, tagTaken, tagDone] then [(.slotTag, slotBase n)]
        else if readTag s.mem (slotBase n) = tagPosted then [(.slotHeader, slotBase n + 4)] else []
      let pageBad (n : Nat) : List (AreaCode × Nat) :=
        if readTag s.mem (pageBase n) ∉ [tagHost, tagGiven, tagFilling, tagFilled] then [(.pageTag, pageBase n)] else []
      ∃ t, Sys2Proof.Machine.exec .tagScan s = .next t ∧
        ShownFrom (((List.range slotCount).flatMap slotBad ++ (List.range pageCount).flatMap pageBad).foldl (fun u e => u.noted e.1 e.2)
          s.opened.swept) t) ∧
    ∀ a p, s.BetweenCommands → QuietScan s → (s.arm a).exec.plan = some p → withdrawSet s.mem p.slot = true →
      waits (s.arm a.other).mot = false → (s.arm a.other).wr.waiting = none →
      let ends (u : State) : Prop := ∃ t, Sys2Proof.Machine.exec .tagScan s = .next t ∧ ShownFrom u t
      let withdrawn (u : State) : Prop := u.PlanAlone a p → ends (u.planEnded a p .withdrawn .none)
      (∀ r need d, s.doing a = .zoneWait r need d → let u := s.opened.swept.unwaiting a
        withdrawn u ∧ ((s.arm a).cap.sample ≠ none → ends ((u.standing a .running (.zones r)).setDoing a (.ending .withdrawn .none)))) ∧
      (∀ d, s.doing a = .rackWait d → s.rack.waiter = some a →
        withdrawn { s.opened.swept with rack := { s.rack with waiter := none } }) ∧
      ∀ q, s.doing a = .roomWait → (s.arm a).wr.waiting = some q → roomLeft (s.arm a).wr < q.n →
        (givenPages s).length < pagesNeeded (s.arm a).wr q.n → withdrawn s.opened.swept

/-- A scan takes the plan of a POSTED slot at distance 0, of several the one with the lowest index, the others left POSTED: the slot is TAKEN
and the expected number rises by 1. An IDLE or UNHOMED arm fetches the plan's first item; one in STANDBY is WAKING, its standby request
withdrawn and the wake timer running; one in WAKING or ESTOP stays so with its plan, in ESTOP with resume point Boundary. An arm that has a
plan takes none (R20, R21, R23, R25, R50, R51, R70, R71). A take whose slot the host has tagged anew is not made, and is reported as
TAG_CONFLICT (R3); in a scan at one moment the host's write comes before or after the take (the model's choice, notes/assumptions/32.md). -/
def Obligations.ScanTakesThePostedPlan : Prop :=
  (∀ (s : State) (n : Nat) (a : Arm), s.Shaped → s.BetweenCommands → FirstPosting s n a →
    let ends (u : State) : Prop := ∃ t, Sys2Proof.Machine.exec .tagScan s = .next t ∧ ShownFrom u t
    (s.hasPlan a = true → ends s.opened.swept) ∧
    (s.hasPlan a = false → withdrawSet s.mem n = false →
      let e := Executor.taking (planOf s.mem n)
      let u := { s.opened.swept with mem := writeTag s.mem (slotBase n) tagTaken }.setArm a
        { s.arm a with expected := (s.arm a).expected + 1, wr := { (s.arm a).wr with counts := PlanCounts.fresh } }
      let v := u.modExec a (fun _ => e)
      (∀ i len, (s.arm a).mot.state = .idle ∨ (s.arm a).mot.state = .unhomed →
        Fetches { s with mem := writeTag s.mem (slotBase n) tagTaken } a e i len → ends ((u.roused a).handing a e i len)) ∧
      ((s.arm a).mot.state = .standby → ends { v.modMot a (fun m =>
        { m with
          state := .waking, standby := false, holdPending := false
          wakeTimer := some { start := s.now, len := (s.inst.arms.get a).wakeTime * 1000 } }) with
        out := if (s.arm a).mot.standby then [.standbyWithdrawn a] else [] }) ∧
      ((s.arm a).mot.state = .waking → ends (v.modMot a (fun m => { m with holdPending := false }))) ∧
      ((s.arm a).mot.state = .estop → ends (v.setResume a (some .boundary))))) ∧
  ∀ (s : State) (n : Nat) (a : Arm), readTag s.mem (slotBase n) ≠ tagPosted → ShownFrom (s.noted .tagConflict (slotBase n)) (takePlan a n s)

/-- A scan leaves a POSTED slot at a distance of 1 to 32,767 untouched, refuses one at 32,768 or more as STALE without a change of the
expected number, and refuses one at distance 0 whose withdraw flag is set as WITHDRAWN, the expected number going up by 1 (R22, R24). -/
def Obligations.ScanParksAndRefuses : Prop :=
  ∀ (s : State) (n : Nat) (a : Arm), s.Shaped → s.BetweenCommands → LonePosting s n a →
    let d := (BitVec.ofNat 16 (slotSeq s.mem n) - (s.arm a).expected).toNat
    let swept := { s.opened with scanning := s.scanPending, scanPending := false, view := givenPages s }
    let refused (o : PlanOutcome) : State :=
      { swept with
        mem := writeTag (writeBytes s.mem (slotBase n + 32) (outcomeBytes o .none 0 0 PlanCounts.fresh)) (slotBase n) tagDone
        cause := s.cause ||| causeWord .planDone }
    (1 ≤ d → d ≤ 32767 → ∃ t, Sys2Proof.Machine.exec .tagScan s = .next t ∧ ShownFrom swept t) ∧
    (32768 ≤ d → ∃ t, Sys2Proof.Machine.exec .tagScan s = .next t ∧ ShownFrom (refused .stale) t) ∧
    (d = 0 → withdrawSet s.mem n = true → s.hasPlan a = false → (s.arm a).mot.state ≠ .faulted →
      ∃ t, Sys2Proof.Machine.exec .tagScan s = .next t ∧
        ShownFrom ((refused .withdrawn).setArm a { s.arm a with expected := (s.arm a).expected + 1 }) t)

/-- A CAUSE write clears the causes written with 1, a MASK write replaces the mask, and the interrupt line is asserted exactly while a cause
is both set and unmasked (R9). An ignored register write changes nothing (R182); an ARM_CMD write with an undefined field is counted once, in
every device state (the model's choice, notes/assumptions/74.md), and nothing else, and during a SOFT_RESET not even that (R8, R15). A CONTROL
write with SOFT_RESET is that alone; START together with STOP gives neither, NUDGE stands beside either, after it in the list of commands (the
model's choice, notes/assumptions/40.md); with only undefined bits it is ignored (R7, R182). An ARM_CMD write gives its command to the arms it
names (R8). The registers read as section 11.2 lays them out; that an offset which holds no register reads as 0, and that a write there is no
command, is the model's choice, notes/assumptions/81.md; STATE with the device state and the START result, and AREA_ERROR with its code
and offset (R10, R11). A host access of several bytes is one access (R1, notes/assumptions/3.md). -/
def Obligations.RegisterWrites : Prop :=
  let code : AreaCode → Nat := fun
    | .none => 0
    | .installAxis => 1
    | .installFrame => 2
    | .installZone => 3
    | .installRack => 4
    | .installThermal => 5
    | .installLimits => 6
    | .slotTag => 7
    | .pageTag => 8
    | .slotHeader => 9
    | .tagConflict => 10
  (∀ s : State, s.Shaped →
    (∀ v : BitVec 32, ∃ t, Sys2Proof.Machine.exec (.causeWrite v) s = .next t ∧
      ShownFrom { s.opened with cause := s.cause &&& ~~~(v.setWidth 10) } t) ∧
    (∀ v : BitVec 32, ∃ t, Sys2Proof.Machine.exec (.maskWrite v) s = .next t ∧
      ShownFrom { s.opened with mask := v.setWidth 10 } t) ∧
    (interruptLine s = true ↔ ∃ i, i < 10 ∧ s.cause.getLsbD i = true ∧ s.mask.getLsbD i = true) ∧
    (∀ (o : Nat) (v : BitVec 32), ∃ t, Sys2Proof.Machine.exec (.registerWriteIgnored o v) s = .next t ∧ ShownFrom s.opened t) ∧
    (∃ t, Sys2Proof.Machine.exec .armCmdUndefined s = .next t ∧
      ShownFrom (if s.resetting then s.opened else { s.opened with ignoredCmds := s.ignoredCmds + 1 }) t) ∧
    readRegister s 0x00 = 0x4C620001 ∧ readRegister s 0x04 = 0 ∧ readRegister s 0x08 = s.ignoredCmds.toNat ∧
    readRegister s 0x10 = s.cause.toNat ∧ readRegister s 0x14 = s.mask.toNat ∧
    (∀ o, o ∉ [0x00, 0x04, 0x08, 0x0C, 0x10, 0x14, 0x18] → readRegister s o = 0) ∧
    readRegister s 0x0C % 4 = (match s.device with
      | .stopped => 0
      | .starting => 1
      | .running => 2
      | .stopping => 3) ∧
    readRegister s 0x0C / 4 % 64 = 0 ∧ readRegister s 0x0C / 256 = (match s.startResult with
      | .none => 0
      | .ok => 15
      | .failed k => code k) ∧
    readRegister s 0x18 % 0x1000000 = s.areaOffset.toNat ∧ readRegister s 0x18 / 0x1000000 = code s.areaCode ∧
    (∀ (o : Nat) (l : List Byte), o + l.length ≤ 0x400000 → ∃ m, hostStore s o l = .next { s with mem := m } ∧
      ∀ x, x < 0x400000 → readByte m x = if o ≤ x ∧ x < o + l.length then l.getD (x - o) 0 else readByte s.mem x) ∧
    (∀ o n, o + n ≤ 0x400000 → hostLoad s o n = .next ((List.range n).map (fun k => readByte s.mem (o + k))))) ∧
  (∀ v : BitVec 32, registerWrite 0x04 v =
    if v.getLsbD 2 then [.softReset]
    else if v.getLsbD 0 = false ∧ v.getLsbD 1 = false ∧ v.getLsbD 3 = false then [.registerWriteIgnored 0x04 v]
    else (if v.getLsbD 0 = true ∧ v.getLsbD 1 = false then [.start] else []) ++
      (if v.getLsbD 1 = true ∧ v.getLsbD 0 = false then [.stop] else []) ++ if v.getLsbD 3 then [.nudge] else []) ∧
  (∀ v : BitVec 32, registerWrite 0x10 v = [.causeWrite v] ∧ registerWrite 0x14 v = [.maskWrite v] ∧
    (∀ o ∈ [0x00, 0x0C, 0x18], registerWrite o v = [.registerWriteIgnored o v]) ∧
    ∀ o, o ∉ [0x00, 0x04, 0x08, 0x0C, 0x10, 0x14, 0x18] → registerWrite o v = []) ∧
  ∀ v : BitVec 32, let named := v.toNat % 4; let cmd := v.toNat / 16 % 4
    (named = 0 ∨ cmd = 0 → registerWrite 0x08 v = [.armCmdUndefined]) ∧
    ∀ sel : ArmSel, named = (match sel with
      | .armA => 1
      | .armB => 2
      | .both => 3) →
      (cmd = 1 → registerWrite 0x08 v = [.hold sel]) ∧ (cmd = 2 → registerWrite 0x08 v = [.resume sel]) ∧
        (cmd = 3 → registerWrite 0x08 v = [.abort sel])

/-- The end of a section's rewrite makes its counter even by adding 1; a change marked meanwhile begins one further rewrite, which shows the
state as it then stands; nothing else changes (R17). That the further rewrite has its content written and its counter odd within the same
command is the model's reading, notes/assumptions/43.md. -/
def Obligations.SectionRewriteEnds : Prop :=
  ∀ (x : Section) (s : State), s.Shaped → ∃ t, Sys2Proof.Machine.exec (.sectionRewriteComplete x) s = .next t ∧
    { t with mem := s.mem, sections := s.sections } = s.opened ∧ (∀ y, y ≠ x → t.sectionState y = s.sectionState y) ∧
    (∀ a, a < sectionBase x ∨ sectionBase x + 4 + (s.sectionContent x).length ≤ a → readByte t.mem a = readByte s.mem a) ∧
    ((s.sectionState x).busy = false → t.sectionState x = s.sectionState x ∧ t.mem = s.mem) ∧
    ((s.sectionState x).busy = true → (s.sectionState x).marked = false →
      t.sectionState x = { counter := (s.sectionState x).counter + 1, busy := false, marked := false } ∧
      readNat t.mem (sectionBase x) 4 = ((s.sectionState x).counter + 1).toNat ∧
      ∀ a, sectionBase x + 4 ≤ a → readByte t.mem a = readByte s.mem a) ∧
    ((s.sectionState x).busy = true → (s.sectionState x).marked = true →
      t.sectionState x = { counter := (s.sectionState x).counter + 2, busy := true, marked := false } ∧
      readBytes t.mem (sectionBase x) (4 + (s.sectionContent x).length) =
        leBytes 4 ((s.sectionState x).counter + 2).toNat ++ s.sectionContent x)

/-! ### Commands to an arm (R8, R64 to R72) -/

/-- HOLD in RUNNING: a segment in flight begins to stop and the sample timer stops; a DWELL pauses with its time left and the arm is HELD at
once; without a plan the HOLD is ignored and counted; of BOTH, each arm judges it on its own (R8, R64). A wait ends, and the arm is HELD with
the claim, the rack or the room to be asked for again (R64, R82, R107, R123, R173); a change step is abandoned, an abandoned P5 or P6 with its
supply (R117); a start that awaits its drives or the shadow, a SCAN that awaits its last sample and a motion item, HOME or DWELL not yet begun
are abandoned too (R53, R64; the item's own row: the model's reading, notes/assumptions/13.md). A HOLD waits for the end of another fetched
item, of a HEAD or a SET_LOCATION, and in WAKING for the end of the wake (R64, R95). A HELD, FAULTED or ESTOP arm ignores it, counted, and so
does one that stops already for a HOLD, an ABORT or a STOP; a stop at a hit becomes that of the HOLD (R8, R64, R129). That a HOLD is dropped and
not counted during the stop for a fault is the model's reading, notes/assumptions/24.md, and so are: that the room request is dropped,
notes/assumptions/66.md; that a HOLD which already waits for the end of a MARK goes on waiting, notes/assumptions/70.md; that an end which awaits
a sample counts as a stop, notes/assumptions/46.md; where an abandoned step or start goes on, notes/assumptions/12.md, notes/assumptions/59.md and
notes/assumptions/72.md; that the position shown of an arm that stands is not replaced, notes/assumptions/75.md. -/
def Obligations.HoldReachesAnArm : Prop :=
  ∀ s : State, s.Shaped → s.BetweenCommands → s.device = .running → s.resetting = false →
    (∀ a, s.HoldPlain a → ∃ t, Sys2Proof.Machine.exec (.hold (selOf a)) s = .next t ∧ ShownFrom (s.opened.heldBy a) t) ∧
    (s.HoldPlain .A → s.HoldPlain .B →
      ∃ t, Sys2Proof.Machine.exec (.hold .both) s = .next t ∧ ShownFrom ((s.opened.heldBy .A).heldBy .B) t) ∧
    ∀ a, s.hasPlan a = true →
      let ends (u : State) : Prop := ∃ t, Sys2Proof.Machine.exec (.hold (selOf a)) s = .next t ∧ ShownFrom u t
      let ignored := { s.opened with ignoredCmds := s.ignoredCmds + 1 }
      let later := s.opened.modMot a (fun m => { m with holdPending := true })
      ((s.arm a).mot.state ∈ [.running, .homing, .zoneWait, .rackWait, .roomWait] →
        (∀ w r, EstopEnds s a w r → (∀ d, s.doing a ≠ .indexing d) → (∀ i, handedItem s a = some i → i.heldAtOnce = true) →
          ends ((w s.opened).standing a .held r)) ∧
        ((∃ i, handedItem s a = some i ∧ i.heldAtOnce = false) ∨ (∃ d, s.doing a = .indexing d) ∨ (∃ k d, s.doing a = .locating k d) →
          ends later) ∧
        (∀ g st, s.doing a = .inFlight g → (s.arm a).mot.stop = some st →
          (st.hold = true ∨ st.ending ≠ none → ends ignored) ∧
          (st.hold = false → st.ending = none →
            (st.fault = none → ends (s.opened.stopping a (fun x => { x with hold := true }))) ∧ (st.fault ≠ none → ends s.opened))) ∧
        ∀ o f, s.doing a = .ending o f → ends ignored) ∧
      ((s.arm a).mot.state = .waking → ends later) ∧
      ((s.arm a).mot.state ∈ [.held, .faulted, .estop] → ends ignored)

/-- RESUME of one arm in RUNNING, HELD or FAULTED by another fault than SCALE_FAULT, carries out its resume point (R65): a DWELL runs on with
its time left; at an item boundary the fetch is made; a segment or its zone claim is started again from step 1 of R53; a HOME search goes on
with the axis not yet done; room is asked for again, and so is the rack; a change step begins anew: its lid, coupling or supply command is
sent again with its time, its move made again (a step being the part in progress, the model's reading, notes/assumptions/72.md), a P1 judged
again, and D7 reads its port again (R62, R107, R115 to R117, R123); P5 switches the supply on; P6, which an overcurrent leaves, asks for the
identity again and leaves the supply off (R101; the model's reading, notes/assumptions/12.md), P7 with its move, its 500 ms running from the RESUME (notes/assumptions/29.md). A faulted item is carried out again
(R65, R98, R104), a TOUCH after TOUCH_MISSED enters PASS1 with S, its room and one attempt (R127), and a HOME with no axis left completes (the
model's reading, notes/assumptions/27.md). An arm FAULTED by SCALE_FAULT ignores it, counted (R8), and so does
one, HELD or FAULTED too, whose plan's end has been decided and awaits a sample (R46, R134; notes/assumptions/46.md). -/
def Obligations.ResumeReachesAnArm : Prop :=
  ∀ (s : State) (a : Arm), s.Shaped → s.BetweenCommands → s.device = .running → s.resetting = false →
    let ends (u : State) : Prop := ∃ t, Sys2Proof.Machine.exec (.resume (selOf a)) s = .next t ∧ ShownFrom u t
    let run : State := s.opened.modMot a (fun m => { m with state := .running, resume := none })
    (((s.arm a).mot.state = .faulted ∧ (s.arm a).mot.lastFault = .scaleFault) ∨ (∃ o f, s.doing a = .ending o f) →
      ends { s.opened with ignoredCmds := s.ignoredCmds + 1 }) ∧
    (∀ n, Resumes s a (.dwell n) → ends (run.setDoing a (.dwelling { start := s.now, len := n }))) ∧
    (∀ i len, Resumes s a .boundary → Fetches s a (s.arm a).exec i len → ends (s.opened.handing a (s.arm a).exec i len)) ∧
    (∀ r, Resumes s a (.segment r) ∨ Resumes s a (.zones r) →
      (r.kind ≠ .changeMove → StartsFreely s a r → ends (s.opened.flying a r)) ∧
      (∀ c, r.kind = .changeMove → (s.arm a).change = some c →
        let u := s.opened.setChange a (some { c with confirm := none })
        StartsFreely u a r → ends (u.flying a r)) ∧
      (targetInLimits s a r.target = true → claimable s.zones a (neededSet s a r) = true →
        let v := { run with zones := grantZones a (neededSet s a r) s.zones }
        ProbesFreely v a r → ends (v.probing a r))) ∧
    (∀ i rest, Resumes s a (.home (i :: rest)) → (∀ j, (s.arm a).scale.signal.get j = true) →
      (∀ z ∈ s.zones, z.inUse = true → z.holder ≠ some a.other) → drivesOn s a = true →
      ends ((({ s.opened with zones := s.zones.map (fun z : Zone => if z.inUse then { z with holder := some a } else z) } : State).modScale a
        (fun sc => { sc with homed := false })).modMot a (fun m =>
          { m with
            state := .homing, resume := none, stop := none, commanded := none
            doing := .inFlight { req := { kind := .home (i :: rest), target := ⟨0, 0, 0⟩, feed := 0, sweep := [] }, start := s.position a,
                                 effective := ((s.inst.axes.get a).get i).creep,
                                 profile := .search i (-1) ((s.inst.axes.get a).get i).accel, marked := false
                                 begun := s.now } }))) ∧
    (Resumes s a .room → (s.arm a.other).mot.resume ≠ some .room → (s.arm a).exec.plan ≠ none →
      (∀ f, (s.arm a).exec.item = some (.scan f) → roomLeft (s.arm a).wr < f.maxPoints →
        s.view.length < pagesNeeded (s.arm a).wr f.maxPoints →
        ends { (s.opened.modWr a (fun w => { w with waiting := some { n := f.maxPoints, time := s.now } })).modMot a (fun m =>
          { m with state := .roomWait, doing := .roomWait, resume := none }) with cause := s.cause ||| causeWord .armWait }) ∧
      ∀ f e, (s.arm a).exec.item = some (.touch f) → (s.arm a).cap.item = some (.touch e) → 1 ≤ roomLeft (s.arm a).wr →
        let r := passTo .pass1 (s.position a) e.target e.touchFeed
        let u := (run.modCap a (fun c => { c with startPos := s.position a, phase := .pass1 })).modWr a (fun w => { w with grant := some 1 })
        let v := { u with zones := grantZones a (neededSet s a r) s.zones }
        targetInLimits s a r.target = true → claimable s.zones a (neededSet s a r) = true → ProbesFreely v a r → ends (v.probing a r)) ∧
    (Resumes s a .rack →
      (s.rack.holder = some a.other → ends { (({ s.opened with rack := { s.rack with waiter := some a } } : State).modMot a (fun m =>
        { m with
          state := .rackWait, resume := none, doing := .rackWait { start := s.now, len := s.inst.rackWait * 1000000 } })) with
        cause := s.cause ||| causeWord .armWait }) ∧
      ∀ p, s.rack.holder ≠ some a.other → (s.arm a).change = none → (s.arm a).exec.item = some (.change p) → 1 ≤ p →
        (s.arm a).head.occ = .empty →
        let u := s.opened.picking a p
        StartsFreely u a (rackMove u a (s.probe p).homePort false) → ends (u.flying a (rackMove u a (s.probe p).homePort false))) ∧
    (Resumes s a .item → ends (run.setDoing a .handed)) ∧
    (∀ e, Resumes s a .touchAgain → (s.arm a).cap.item = some (.touch e) →
      let r := passTo .pass1 (s.arm a).cap.startPos e.target e.touchFeed
      let u := run.modCap a (fun c => { c with phase := .pass1, attempts := 1, hit := none, pointTaken := false })
      let v := { u with zones := grantZones a (neededSet s a r) s.zones }
      targetInLimits s a r.target = true → claimable s.zones a (neededSet s a r) = true → ProbesFreely v a r → ends (v.probing a r)) ∧
    (∀ n len, Resumes s a (.home []) → s.noZoneWait a.other →
      let h := { (run.modScale a (fun sc => { sc with homed := true })).modMot a (fun m => { m with shown := s.position a }) with
        zones := s.zones.map (fun z => if z.holder = some a ∧ meetsZone (envelope s a) z = false then { z with holder := none } else z) }
      Completing h a n len → ends (h.completed a n len)) ∧
    ∀ c st, Resumes s a (.changeStep st) → (s.arm a).change = some c →
      let onStep (x : ChangeStep) : Change := { c with step := x }
      let opening (x : ChangeStep) : Change := { c with step := x, opened := if c.port ∈ c.opened then c.opened else c.port :: c.opened }
      let moves (d : Change) (dock : Bool) : Prop :=
        let u := s.opened.setChange a (some d)
        StartsFreely u a (rackMove u a d.port dock) → ends (u.flying a (rackMove u a d.port dock))
      (st = .d2 ∨ st = .p2open → ends (s.opened.awaiting a (opening st) 2000 [.openLid c.port])) ∧
      (st = .d8close ∨ st = .p8 → ends (s.opened.awaiting a (onStep st) 2000 [.closeLid c.port])) ∧
      (st = .d5 → ends (s.opened.awaiting a (onStep .d5) 500 [.release a])) ∧
      (st = .d7 → (s.rack.port c.port).occ ≠ .occupied → ends (s.opened.awaiting a (onStep .d7) 500 [])) ∧
      (st = .p3lock ∨ st = .p3unlock → ends (s.opened.awaiting a { c with step := .p3lock, attempts := 1 } 500 [.lock a])) ∧
      ((st = .p5 → ends ((s.opened.modHead a (fun h => { h with supplyOn := true, supplyChecked := false })).awaiting a (onStep .p5) 20
        [.supply a true])) ∧ (st = .p6 → ends (s.opened.awaiting a (onStep .p6) 100 [.identityRequest a]))) ∧
      (st = .d3 ∨ st = .p2dock → moves (onStep st) true) ∧ (st = .d8move → moves (onStep .d8move) false) ∧
      (st = .p7move → moves { c with step := .p7move, confirm := none } false) ∧
      (st = .p7confirm → moves { c with step := .p7move, confirm := some { start := s.now, len := 500000 } } false) ∧
      (st = .p1 ∨ st = .claim → (s.arm a).head.occ = .empty → 1 ≤ c.target →
        moves { c with step := .p1, port := (s.probe c.target).homePort, probe := c.target, attempts := 0 } false) ∧
      ∀ q, st = .d1 ∨ st = .claim → (s.arm a).head.occ = .probe q → q ≠ c.target →
        moves { c with step := .d1, port := (s.probe q).homePort, probe := q, attempts := 0 } false

/-- ABORT in RUNNING: a segment in flight begins to stop for the end of the plan; without a plan the ABORT is ignored and counted. The plan
of an arm that stands at an item boundary, HELD or FAULTED, ends ABORTED at once: the outcome written, with the last fault of a FAULTED arm,
the slot tagged DONE with PLAN_DONE set, the zones released by the envelope rule, the arm IDLE or UNHOMED (R8, R45, R51, R66, R83, R180). Its
one page is closed first: with records it is tagged FILLED, its link none and PAGE_CLOSED set; without any it is given back and joins the
view (R175, R176). Where the host has tagged the slot anew, the outcome is written, but not the tag: TAG_CONFLICT is reported, and PLAN_DONE
not set (R3, R45). Where the release takes zones away while the other arm is in ZONE_WAIT, its wait is judged again: its needed zones are
granted and its segment starts, or it becomes the waiter of the lowest zone still held, its wait start kept (R80). A change that awaits a
step ends with the plan (R117, R118), the unlock wait of P3 being answered as a lock step (the model's reading, notes/assumptions/41.md). With a
sample in flight the arm stands, its plan to end with the sample (R134; notes/assumptions/46.md). In ESTOP the plan of a standing arm ends, and
the arm stays there, still known to have been FAULTED at the assertion or to have taken SCALE_FAULT since, so that a plan taken before the
release leaves for FAULTED (R66, R68, R69; notes/assumptions/25.md); the fault of the outcome then is the model's reading,
notes/assumptions/26.md. The position shown of an arm that stands is not replaced (the model's reading, notes/assumptions/75.md). -/
def Obligations.AbortReachesAnArm : Prop :=
  ∀ (s : State) (a : Arm), s.Shaped → s.BetweenCommands → s.device = .running → s.resetting = false →
    let ends (u : State) : Prop := ∃ t, Sys2Proof.Machine.exec (.abort (selOf a)) s = .next t ∧ ShownFrom u t
    (∀ g, s.hasPlan a = true → s.doing a = .inFlight g → (s.arm a).mot.stop = none →
      ends (s.opened.stopping a (fun st => { st with ending := some .aborted }))) ∧
    (s.hasPlan a = false → ends { s.opened with ignoredCmds := s.ignoredCmds + 1 }) ∧
    (∀ r, s.hasPlan a = true → s.doing a = .nothing → (s.arm a).mot.resume = some r → (∀ x, r ≠ .changeStep x) →
      (s.arm a).mot.estopFaulted = false → (s.arm a).mot.state = .held ∨ (s.arm a).mot.state = .faulted → (s.arm a).cap.sample ≠ none →
      ends ((s.opened.standing a (s.arm a).mot.state r).setDoing a
        (.ending .aborted (if (s.arm a).mot.state = .faulted then (s.arm a).mot.lastFault else .none)))) ∧
    (∀ p, s.doing a = .nothing → (s.arm a).mot.state = .estop → s.estop = true → (s.arm a).mot.resume = some .boundary →
      (s.opened.setArmState a .running).PlanAlone a p →
      ends ((((s.opened.setArmState a .running).planEnded a p .aborted
        (if (s.arm a).mot.estopFaulted then (s.arm a).mot.lastFault else .none)).released a).modMot a (fun m =>
          { m with state := .estop, idleTimer := (s.arm a).mot.idleTimer }))) ∧
    (∀ p, s.doing a = .nothing → (s.arm a).mot.resume = some .boundary → (s.arm a).mot.estopFaulted = false →
      (s.arm a).mot.state = .held ∨ (s.arm a).mot.state = .faulted →
      let f := if (s.arm a).mot.state = .faulted then (s.arm a).mot.lastFault else .none
      (s.PlanAlone a p → ends ((s.opened.planEnded a p .aborted f).released a)) ∧
      (s.PlanEnds a p → readTag s.mem (slotBase p.slot) ≠ tagTaken → s.noZoneWait a.other →
        ends ((s.opened.planUnwritten a p .aborted f).released a)) ∧
      (∀ r need d, s.PlanEnds a p → readTag s.mem (slotBase p.slot) = tagTaken → s.doing a.other = .zoneWait r need d →
        let b := a.other
        let u := (s.opened.planEnded a p .aborted f).released a
        let v := u.unwaiting b
        (u.zones = s.zones → ends u) ∧
        (u.zones ≠ s.zones → claimable u.zones b need = true → need = neededSet s b r →
          ((s.arm b).mot.resume = none → StartsFreely v b r → ends (v.flying b r)) ∧
          (let x : State := { v with zones := grantZones b need v.zones }
           ProbesFreely x b r → ends (x.probing b r))) ∧
        (u.zones ≠ s.zones → ∀ (n k : Nat) (z : Zone) (t0 : Stamp), s.zones[k]? = some z → z.waiter = some b → z.waitStart = some t0 →
          (∀ (j : Nat) (y : Zone), s.zones[j]? = some y → y.waiter = some b → j = k) → n ∈ need → zoneHolder u.zones n = some a →
          (∀ j ∈ need, j < n → zoneHolder u.zones j ≠ some a) →
          ends { v with zones := v.zones.modify n (fun y => { y with waiter := some b, waitStart := some t0 }) })) ∧
      ∀ q : ChainPage, (s.arm a).wr.chain = [q] → readTag s.mem (pageBase q.page) = tagFilling →
        let bare := s.opened.modWr a (fun w => { w with chain := [] })
        bare.PlanAlone a p →
        (1 ≤ q.count → ends ((({ bare with
            cause := s.cause ||| causeWord .pageClosed
            mem := writeTag (writeBytes s.mem (pageBase q.page + 12) [0xFF, 0xFF]) (pageBase q.page) tagFilled } : State).planEnded a p
              .aborted f).released a)) ∧
        (q.count = 0 → (s.arm a).wr.lastKept = none → (s.arm a.other).wr.waiting = none → q.page ∉ s.view →
          ∃ view : List Nat, (∀ x, x ∈ view ↔ x = q.page ∨ x ∈ s.view) ∧ (s.view.Pairwise (· < ·) → view.Pairwise (· < ·)) ∧
            ends ((({ bare with view := view, mem := writeTag s.mem (pageBase q.page) tagGiven } : State).planEnded a p .aborted f).released
              a))) ∧
    ∀ p c d, AwaitsStep s a c d → (s.arm a).mot.state = .running → (s.arm a).mot.estopFaulted = false → s.rack.holder = some a →
      s.rack.waiter = none → (c.step = .p5 ∨ c.step = .p6 →
            ((s.arm a).head.supplyOn = false → (s.arm a).head.supplyChecked = false) ∧ ∃ q, (s.arm a).head.occ = .probe q) →
      (s.opened.changeEnded a c).PlanAlone a p → ends (((s.opened.changeEnded a c).planEnded a p .aborted .none).released a)

/-- HOLD, RESUME and ABORT outside RUNNING are delivered to no arm and counted once for each arm named; during a SOFT_RESET they have no
effect (R8, R15). -/
def Obligations.ArmCommandsOutsideRunning : Prop :=
  ∀ (sel : ArmSel) (s : State), s.Shaped → s.BetweenCommands →
    let counted := { s.opened with ignoredCmds := s.ignoredCmds + BitVec.ofNat 16 (if sel = .both then 2 else 1) }
    (s.resetting = true →
      (∃ t, Sys2Proof.Machine.exec (.hold sel) s = .next t ∧ ShownFrom s.opened t) ∧
      (∃ t, Sys2Proof.Machine.exec (.abort sel) s = .next t ∧ ShownFrom s.opened t) ∧
      ((∀ a, (s.arm a).mot.resume ≠ some .room) → ∃ t, Sys2Proof.Machine.exec (.resume sel) s = .next t ∧ ShownFrom s.opened t)) ∧
    (s.resetting = false → s.device ≠ .running →
      (∃ t, Sys2Proof.Machine.exec (.hold sel) s = .next t ∧ ShownFrom counted t) ∧
      (∃ t, Sys2Proof.Machine.exec (.abort sel) s = .next t ∧ ShownFrom counted t) ∧
      ((∀ a, (s.arm a).mot.resume ≠ some .room) → ∃ t, Sys2Proof.Machine.exec (.resume sel) s = .next t ∧ ShownFrom counted t))

/-- A stopping arm comes to rest, and the shown position is replaced. After a HOLD it is HELD with its segment as resume point, a HOME with the
axes not yet done; after a runtime fault it is FAULTED with the fault's code as last fault code and ARM_FAULT set, the drives off after
FOLLOWING_ERROR, DRIVE_FAULT and SCALE_FAULT; no zone is released (R49, R56, R57, R60, R63, R64). In ESTOP it stands with that resume point and
its drives off; where the input has been released meanwhile it leaves ESTOP now (R68, R69). After an ABORT or a STOP its plan ends, the zones
released by the envelope rule, and a sample in flight completes first (R66, R72, R83, R134). For a SOFT_RESET it only stands (R15). A pass
stopped by its hit is decided: H is taken and the back-off to B begins, B being H + (S − E) × b/1024, rounded, held between H and S; or, in
PASS2 and in a TOUCH of one pass, the point is compensated and its record placed, and the retract to S begins; after a HOLD the arm is HELD with
that segment as resume point, after a fault FAULTED; an ABORT or a STOP ends the plan with the point kept, but not the H of a PASS1 before a
PASS2 (R121, R125, R126, R129, R130, R174). A latch filled in any other segment, or at the rest of a SOFT_RESET, is emptied. That the outcome
then carries a fault the arm was stopping for is the model's reading, notes/assumptions/55.md; that a fault for which the arm was stopping is
taken as last fault code at a rest in ESTOP, notes/assumptions/25.md, SCALE_FAULT being kept, notes/assumptions/31.md; that an axis whose mark
came during the stop is done, notes/assumptions/27.md; the wait for a sample, notes/assumptions/46.md. That the count of records written wraps at
2^32 is the model's choice, notes/assumptions/77.md. -/
def Obligations.StoppedArmComesToRest : Prop :=
  ∀ (s : State) (a : Arm) (counts : Counts) (g : Segment) (st : Stop), s.Shaped → s.BetweenCommands → s.doing a = .inFlight g →
    (s.arm a).mot.stop = some st →
    let estop : Prop := (s.arm a).mot.state = .estop
    let u := s.opened.modScale a (fun sc =>
      { sc with count := Axes.of (fun i => if sc.signal.get i then counts.get i else sc.count.get i), latch := none })
    let v := u.modMot a (fun m =>
      { m with
        shown := u.position a
        drives := if st.drivesOff || st.fault.any switchesOff || decide (m.state = .estop) then Axes.all3 false else m.drives })
    let ends (w : State) : Prop := ∃ t, Sys2Proof.Machine.exec (.armAtRest a counts) s = .next t ∧ ShownFrom w t
    let point : ResumePoint := match g.req.kind with
      | .home rest => .home (if g.marked then rest.drop 1 else rest)
      | _ => .segment g.req
    let stands (w : State) (r : ResumePoint) : State := w.modMot a (fun m => { m with doing := .nothing, stop := none, resume := some r })
    let leaves (w : State) : State := if s.estop then w else w.leavesEstop a
    let inEstop (w : State) (r : ResumePoint) : State := leaves (match st.fault with
      | none => stands w r
      | some f => ((stands w r).recorded a f).modMot a (fun m => { m with estopFaulted := m.estopFaulted || decide (f = .scaleFault) }))
    let rests (w : State) (r : ResumePoint) : Prop :=
      (st.hold = true → st.fault = none → ¬ estop → ends ((stands w r).setArmState a .held)) ∧
      (∀ f, st.fault = some f → s.Unfaulted a → ends (w.faultedAt a f r)) ∧ (estop → ends (inEstop w r))
    let finished (w : State) (p : Plan) (o : PlanOutcome) : State := (w.planEnded a p o (st.fault.getD .none)).released a
    (((s.arm a).scale.latch = none ∨ g.req.kind.isPass = false ∨ st.reset = true ∨
        (st.ending ≠ none ∧ g.req.kind = .pass1 ∧ ∃ e, (s.arm a).cap.item = some (.touch e) ∧ e.measureFeed ≠ 0)) →
      (st.reset = true → ends (stands v point)) ∧
      (st.reset = false → st.ending = none → rests v point) ∧
      ∀ o, st.reset = false → st.ending = some o → o = .aborted ∨ o = .stopped →
        (∀ p, ¬ estop → v.PlanAlone a p → ends (finished v p o)) ∧
        (∀ p, estop → (v.setArmState a .running).PlanAlone a p → ends (leaves ((finished (v.setArmState a .running) p o).modMot a (fun m =>
          { m with state := .estop, idleTimer := (s.arm a).mot.idleTimer })))) ∧
        ((s.arm a).cap.sample ≠ none → (s.arm a).mot.state ∈ [.running, .homing, .estop] →
          ends ((stands v point).setDoing a (.ending o (st.fault.getD .none))))) ∧
    ∀ (l : Latch) (e : TouchFields), (s.arm a).scale.latch = some l → g.req.kind.isPass = true → (s.arm a).cap.item = some (.touch e) →
      st.reset = false →
      let S := (s.arm a).cap.startPos
      let goesOn (w : State) (r : SegReq) : Prop := rests w (.segment r) ∧
        (st.hold = false → st.fault = none → ¬ estop → StartsFreely w a r → ends ((w.modMot a (fun m => { m with stop := none })).flying a r))
      (g.req.kind = .pass1 → e.measureFeed ≠ 0 → st.ending = none → ∃ (H B : Vec3), (∀ i : Axis,
          H.get i = ((l.counts.get i).toInt - ((s.arm a).scale.cref.get i).toInt) * (((s.inst.axes.get a).get i).u : Int) +
            ((s.inst.axes.get a).get i).home ∧
          ∃ x : Int, Rounds ((S.get i - e.target.get i) * e.backoff) 1024 x ∧
            B.get i = max (min (H.get i) (S.get i)) (min (max (H.get i) (S.get i)) (H.get i + x))) ∧
        goesOn (v.modCap a (fun c => { c with phase := .backoff, hit := some H }))
          { kind := .backoff, target := B, feed := e.retractFeed, sweep := [S, e.target] }) ∧
      ∀ p q, g.req.kind = .pass2 ∨ e.measureFeed = 0 → (s.arm a).exec.plan = some p → OnePage s a q →
        let x := pointRecord v a
          { kind := .touch, counts := l.counts, time := l.time, deflection := ⟨0, 0, 0⟩, noDeflection := false, offWindow := false
            attempts := (s.arm a).cap.attempts, ctx := (s.arm a).cap.ctx }
        let w := (v.withRecord a p q x).modCap a (fun c => { c with phase := .retractEnd, pointTaken := true })
        (st.ending = none → goesOn w { kind := .retractEnd, target := S, feed := e.retractFeed, sweep := [S, e.target] }) ∧
        ∀ o, st.ending = some o → o = .aborted ∨ o = .stopped → q.count ≤ 61 → ¬ estop → (w.pageClosed a q.page).PlanAlone a p →
          ends (finished (w.pageClosed a q.page) p o)

/-- The emergency stop (R68 to R70). At the assertion the ESTOP cause is set, and each arm enters ESTOP by what it was doing (`EstopTurn`): an
arm without a plan with its drives and timers off; one in flight begins to stop, its drives to be switched off at rest; one in a DWELL keeps
its time left; one that waits ends its wait, with the claim, the rack or the room to be asked for again; an index is halted; a change step is
abandoned, its supply with it (R82, R98, R107, R117, R123); one that stands keeps its resume point; a non-motion item that has been fetched
still completes at its own step. That an E-stop ends a rack wait is the model's reading of two rules that differ, notes/assumptions/50.md, and
so is the end of a room request, notes/assumptions/66.md; an abandoned P6 resumes at P5, or as P6 where its supply is off already (the model's reading, notes/assumptions/12.md), an
item fetched but not yet begun is its own resume point (notes/assumptions/13.md), a step is the part in progress (notes/assumptions/72.md),
the position shown of an arm that stands is not replaced (notes/assumptions/75.md), and a HOLD that waits for an item's end is dropped
(notes/assumptions/71.md). At the release each arm at rest leaves ESTOP: without a plan for IDLE or UNHOMED, with one for FAULTED, if it was
FAULTED at the assertion or took SCALE_FAULT since, and else for HELD, keeping its resume point. -/
def Obligations.EmergencyStop : Prop :=
  ∀ s : State, s.Shaped → s.BetweenCommands →
    (∀ f g, EstopTurn s .A f → EstopTurn s .B g → ∃ t, Sys2Proof.Machine.exec .estopAssert s = .next t ∧
      ShownFrom (g (f { s.opened with estop := true, cause := s.cause ||| causeWord .estop })) t) ∧
    ((∀ a, (s.arm a).mot.state = .estop ∧ ∀ o f, s.doing a ≠ .ending o f) → ∃ t, Sys2Proof.Machine.exec .estopRelease s = .next t ∧
      ShownFrom ((({ s.opened with estop := false } : State).leavesEstop .A).leavesEstop .B) t)

/-- The idle timer's expiry brings an IDLE arm to STANDBY, its drives off and the standby request sent. The wake timer's expiry brings a
WAKING arm without a plan to IDLE, the idle timer started unless the timeout is 0; one with a plan makes its fetch, or is HELD at its item
boundary where a HOLD waits (R64, R70, R71). Neither timer acts before its time (notes/assumptions/4.md). -/
def Obligations.IdleAndWake : Prop :=
  ∀ (s : State) (a : Arm), s.Shaped → s.BetweenCommands →
    (∀ d, (s.arm a).mot.state = .idle → (s.arm a).mot.idleTimer = some d →
      (d.len ≤ (s.now - d.start).toNat → ∃ t, Sys2Proof.Machine.exec (.idleTimerExpiry a) s = .next t ∧
        ShownFrom { s.modMot a (fun m => { m with state := .standby, idleTimer := none, standby := true, drives := Axes.all3 false }) with
          out := [.standbyRequest a] } t) ∧
      ((s.now - d.start).toNat < d.len → ∃ t, Sys2Proof.Machine.exec (.idleTimerExpiry a) s = .next t ∧ ShownFrom s.opened t)) ∧
    ∀ d, (s.arm a).mot.state = .waking → (s.arm a).mot.wakeTimer = some d →
      (d.len ≤ (s.now - d.start).toNat →
        (s.hasPlan a = false → ∃ t, Sys2Proof.Machine.exec (.wakeTimerExpiry a) s = .next t ∧
          ShownFrom (s.opened.modMot a (fun m =>
            { m with
              state := .idle, wakeTimer := none
              idleTimer := if (s.inst.arms.get a).idleTimeout = 0 then none
                else some { start := s.now, len := (s.inst.arms.get a).idleTimeout * 1000000 } })) t) ∧
        (∀ i len, s.hasPlan a = true → (s.arm a).mot.holdPending = false → Fetches s a (s.arm a).exec i len →
          ∃ t, Sys2Proof.Machine.exec (.wakeTimerExpiry a) s = .next t ∧
            ShownFrom ((s.opened.modMot a (fun m => { m with wakeTimer := none })).handing a (s.arm a).exec i len) t) ∧
        (s.hasPlan a = true → (s.arm a).mot.holdPending = true → ∃ t, Sys2Proof.Machine.exec (.wakeTimerExpiry a) s = .next t ∧
          ShownFrom (s.opened.modMot a (fun m =>
            { m with state := .held, doing := .nothing, resume := some .boundary, wakeTimer := none, holdPending := false })) t)) ∧
      ((s.now - d.start).toNat < d.len → ∃ t, Sys2Proof.Machine.exec (.wakeTimerExpiry a) s = .next t ∧ ShownFrom s.opened t)

/-- A lost scale: the axis is LOST, the homed flag clear, SCALE_FAULT the last fault code and ARM_FAULT set. An arm without a plan is UNHOMED, or
stays UNHOMED, its drives off; a wake is abandoned. An arm in flight begins to stop for the fault, a HOLD dropped, its drives to be switched off
at rest. Any other activity or wait of an arm with a plan ends, and the arm is FAULTED with its drives off and its resume point; a FAULTED arm
stays so, and an arm in ESTOP stays there, also one still stopping or whose plan's end awaits a sample, to be FAULTED at the release, with the
plan it has then (notes/assumptions/25.md); the steps of a SET_LOCATION end there too, with their supply (R48, R57,
R69, R95). A further loss while LOST is no new report; a return makes the axis OK and nothing else (R48). Where the end of a plan awaits a
sample, the outcome of an ABORT or STOP takes the fault, notes/assumptions/23.md, and that of a withdrawal none, notes/assumptions/80.md; a HELD
arm keeps its resume point, but for a DWELL, which is run again whole, notes/assumptions/54.md, and a waiting room request is dropped, notes/assumptions/66.md and 67.md (the model's
readings). -/
def Obligations.ScaleSignals : Prop :=
  ∀ (s : State) (a : Arm) (i : Axis), s.Shaped → s.BetweenCommands →
    let ends (u : State) : Prop := ∃ t, Sys2Proof.Machine.exec (.scaleSignalLoss a i) s = .next t ∧ ShownFrom u t
    let u : State := { (s.opened.modScale a (fun sc => { sc with signal := sc.signal.set i false, homed := false })).modMot a (fun m =>
      { m with lastFault := .scaleFault, estopFaulted := m.estopFaulted || decide (m.state = .estop) }) with
      cause := s.cause ||| causeWord .armFault }
    let unlocated (x : State) : State :=
      { (x.modHead a (fun h => { h with supplyOn := false, supplyChecked := false })).standing a (s.arm a).mot.state .item with
        out := [.supply a false] }
    ((s.arm a).scale.signal.get i = true →
      (s.hasPlan a = false →
        ((s.arm a).mot.state = .idle ∨ (s.arm a).mot.state = .standby → ends (((u.roused a).undriven a).setArmState a .unhomed)) ∧
        ((s.arm a).mot.state = .unhomed → ends (u.undriven a)) ∧
        ((s.arm a).mot.state = .waking → ends (u.modMot a (fun m => { m with state := .unhomed, wakeTimer := none })))) ∧
      (∀ g, s.doing a = .inFlight g →
        ends (u.stopping a (fun st => { st with hold := false, fault := some .scaleFault, drivesOff := true }))) ∧
      (∀ o f, s.doing a = .ending o f → ends ((u.undriven a).setDoing a (.ending o (if o = .withdrawn then .none else .scaleFault)))) ∧
      (∀ w r, s.hasPlan a = true → (s.arm a).mot.state ∈ [.running, .homing, .zoneWait, .rackWait, .roomWait, .held, .waking] →
        FaultEnds s a w r → ends ((w u).faultedAt a .scaleFault r)) ∧
      ((∀ g, s.doing a ≠ .inFlight g) → (∀ o f, s.doing a ≠ .ending o f) → (∀ k d, s.doing a ≠ .locating k d) →
        ((s.arm a).mot.state = .faulted → ends (u.undriven a)) ∧ ((s.arm a).mot.state = .estop → ends u)) ∧
      ∀ k d, s.doing a = .locating k d → (s.arm a).head.supplyOn = true →
        ((s.arm a).mot.state = .faulted → ends (unlocated (u.undriven a))) ∧
        ((s.arm a).mot.state = .estop → ends (unlocated u))) ∧
    ((s.arm a).scale.signal.get i = false → ∃ t, Sys2Proof.Machine.exec (.scaleSignalLoss a i) s = .next t ∧ ShownFrom s.opened t) ∧
    ∃ t, Sys2Proof.Machine.exec (.scaleSignalReturn a i) s = .next t ∧
      ShownFrom (s.opened.modScale a (fun sc => { sc with signal := sc.signal.set i true })) t

/-! ### Drives, references and segments (R47, R53 to R63) -/

/-- While the HOME search of axis `i` is in flight, its reference mark makes the count at the mark the axis's reference count, and the
axis decelerates; one that passes while the search is stopping counts too (the model's reading, notes/assumptions/27.md); a mark that no search
awaits only moves the counter (R47, R63). The end of a marked axis's search begins the search of
the next axis at its creep feed, or, after the last, completes the HOME with the homed flag set, the position shown, and only the zones
kept that the envelope box intersects (R63, R84). -/
def Obligations.HomeSearchesFollowOneAnother : Prop :=
  ∀ (s : State) (a : Arm), s.Shaped → s.BetweenCommands →
    (∀ (i : Axis) (c : BitVec 32), (s.arm a).scale.signal.get i = true →
      (∀ g rest, s.doing a = .inFlight g → g.req.kind = .home (i :: rest) → g.marked = false →
        ∃ t, Sys2Proof.Machine.exec (.referenceMark a i c) s = .next t ∧
          ShownFrom ((s.opened.modScale a (fun sc => { sc with count := sc.count.set i c, cref := sc.cref.set i c })).setDoing a
            (.inFlight { g with marked := true })) t) ∧
      ((∀ g, s.doing a ≠ .inFlight g) → ∃ t, Sys2Proof.Machine.exec (.referenceMark a i c) s = .next t ∧
        ShownFrom (s.opened.modScale a (fun sc => { sc with count := sc.count.set i c })) t)) ∧
    ∀ (counts : Counts) (g : Segment) (i : Axis) (rest : List Axis), s.doing a = .inFlight g → g.req.kind = .home (i :: rest) →
      g.marked = true → (s.arm a).mot.stop = none →
      let u := s.opened.modScale a (fun sc => { sc with count := Axes.of (fun i => if sc.signal.get i then counts.get i else sc.count.get i) })
      (∀ j more, rest = j :: more → ∃ t, Sys2Proof.Machine.exec (.homeAxisDone a counts) s = .next t ∧
        ShownFrom (u.setDoing a (.inFlight
          { req := { kind := .home rest, target := ⟨0, 0, 0⟩, feed := 0, sweep := [] }, start := u.position a,
            effective := ((s.inst.axes.get a).get j).creep, profile := .search j (-1) ((s.inst.axes.get a).get j).accel, marked := false
            begun := s.now })) t) ∧
      (∀ n len, rest = [] → s.noZoneWait a.other →
        let h := { (u.modScale a (fun sc => { sc with homed := true })).modMot a (fun m => { m with shown := u.position a }) with
          zones := s.zones.map (fun z => if z.holder = some a ∧ meetsZone (envelope u a) z = false then { z with holder := none } else z) }
        Completing h a n len → ∃ t, Sys2Proof.Machine.exec (.homeAxisDone a counts) s = .next t ∧ ShownFrom (h.completed a n len) t)

/-- Ready reports: one that leaves another drive's awaited is noted; the third begins the profile, a leg's sample timer and a HOME's search
with it; a report later than 1,000 ms after the enable is none; 1,000 ms without all three is DRIVE_FAULT before the profile, with all drives
off and the segment to start again (R60). That a timeout which comes before its time does nothing is the model's choice,
notes/assumptions/4.md. -/
def Obligations.DrivesReportReady : Prop :=
  ∀ (s : State) (a : Arm) (i : Axis) (r : SegReq) (f : Nat) (ready : Axes Bool) (d : Timer), s.Shaped → s.BetweenCommands →
    s.doing a = .driveWait r f ready d →
    ((s.now - d.start).toNat ≤ d.len → (ready.set i true).every (fun b => b) = false → ∃ t, Sys2Proof.Machine.exec (.driveReady a i) s = .next t ∧
      ShownFrom (s.opened.setDoing a (.driveWait r f (ready.set i true) d)) t) ∧
    ((s.now - d.start).toNat ≤ d.len → (ready.set i true).every (fun b => b) = true →
      (r.kind.isHome = false → ∃ t, Sys2Proof.Machine.exec (.driveReady a i) s = .next t ∧ ShownFrom (s.opened.inAir a r f) t) ∧
      ∀ j rest, r.kind = .home (j :: rest) → ∃ t, Sys2Proof.Machine.exec (.driveReady a i) s = .next t ∧
        ShownFrom ((s.opened.modScale a (fun sc => { sc with homed := false })).modMot a (fun m =>
          { m with
            state := .homing, stop := none, commanded := none
            doing := .inFlight { req := r, start := s.position a, effective := ((s.inst.axes.get a).get j).creep,
                                 profile := .search j (-1) ((s.inst.axes.get a).get j).accel, marked := false
                                 begun := s.now } })) t) ∧
    (d.len ≤ (s.now - d.start).toNat → s.Unfaulted a → r.kind.isHome = false →
      ∃ t, Sys2Proof.Machine.exec (.driveReadyTimeout a) s = .next t ∧
        ShownFrom (s.opened.faultedAt a .driveFault (.segment r)) t) ∧
    ((s.now - d.start).toNat < d.len → ∃ t, Sys2Proof.Machine.exec (.driveReadyTimeout a) s = .next t ∧ ShownFrom s.opened t) ∧
    (d.len < (s.now - d.start).toNat → ∃ t, Sys2Proof.Machine.exec (.driveReady a i) s = .next t ∧ ShownFrom s.opened t)

/-- A fault of an enabled drive, and a commanded position that differs from the scale position by more than the axis's following limit,
begin the stop of a segment in flight with their fault; a difference of the limit or less does nothing (R57, R59, R60). The commanded
position of a HELD arm whose drives are on is the one that State holds (notes/assumptions/49.md): beyond the limit the arm is FAULTED, a
DWELL to be run again for its whole time (R62), any other resume point kept (the model's reading, notes/assumptions/54.md). -/
def Obligations.DriveChecksStopTheArm : Prop :=
  ∀ (s : State) (a : Arm) (i : Axis), s.Shaped → s.BetweenCommands → (s.arm a).mot.drives.get i = true →
    (s.arm a).scale.signal.get i = true →
    (∀ g, s.doing a = .inFlight g → (s.arm a).mot.stop = none → (s.arm a).mot.state ≠ .estop →
      (∃ t, Sys2Proof.Machine.exec (.amplifierFault a i) s = .next t ∧ ShownFrom (s.opened.stoppingFor a .driveFault) t) ∧
      ∀ (p : Int) (c : BitVec 32),
        let u := s.opened.modScale a (fun sc => { sc with count := sc.count.set i c })
        (((s.inst.axes.get a).get i).following < (p - (u.position a).get i).natAbs →
          ∃ t, Sys2Proof.Machine.exec (.followingError a i p c) s = .next t ∧ ShownFrom (u.stoppingFor a .followingError) t) ∧
        ((p - (u.position a).get i).natAbs ≤ ((s.inst.axes.get a).get i).following →
          ∃ t, Sys2Proof.Machine.exec (.followingError a i p c) s = .next t ∧ ShownFrom u t)) ∧
    ∀ (held : Vec3) (r : ResumePoint), s.hasPlan a = true → (s.arm a).mot.state = .held → s.doing a = .nothing → s.Unfaulted a →
      (s.arm a).mot.resume = some r → (s.arm a).mot.commanded = some held →
      let point : ResumePoint := match r with
        | .dwell _ => .item
        | _ => r
      (∃ t, Sys2Proof.Machine.exec (.amplifierFault a i) s = .next t ∧ ShownFrom (s.opened.faultedAt a .driveFault point) t) ∧
      ∀ (p : Int) (c : BitVec 32),
        let u := s.opened.modScale a (fun sc => { sc with count := sc.count.set i c })
        (((s.inst.axes.get a).get i).following < (held.get i - (u.position a).get i).natAbs →
          ∃ t, Sys2Proof.Machine.exec (.followingError a i p c) s = .next t ∧ ShownFrom (u.faultedAt a .followingError point) t) ∧
        ((held.get i - (u.position a).get i).natAbs ≤ ((s.inst.axes.get a).get i).following →
          ∃ t, Sys2Proof.Machine.exec (.followingError a i p c) s = .next t ∧ ShownFrom u t)

/-- A segment completes when its profile has ended with every axis in the in-position band: the position is shown, the zones are released that
the envelope box does not intersect, and its item or phase is told; out of the band it is not complete. A MOVE's item completes. A pass of a
TOUCH without a hit is missed: below the last attempt a retract to S for a retry begins, at it the last retract; after the retract for a retry
PASS1 begins again, one attempt on; after a back-off PASS2 begins; after the last retract the TOUCH completes if its point was handed on, and
else its miss is decided by the plan's policy: TOUCH_MISSED under HOLD, a MISS record, the count wrapping (the model's choice,
notes/assumptions/77.md), and completion under RECORD (R56, R61, R83, R125 to R127, R164). A leg of a SCAN is followed by the next; after the
last the sample timer stops, and the SCAN completes, its dropped points counted, or first awaits the sample in flight (R131, R133). The move
of a change step is followed by what R111 to R114 say: at D1 the lid is opened for D2, or the port is not ready, PORT_NOT_EMPTY; after D3 the
supply is switched off (D4) and the probe released (D5); after D8's move the lid is closed; at P1 the lid is opened, or it is PORT_EMPTY; at
the dock point the lock is commanded (P3); after P7's move the lid is closed (P8), or EMPTY awaited for 500 ms, which run from the RESUME
where the move was made again (notes/assumptions/29.md). A band not reached within 1,000 ms of the profile's end is FOLLOWING_ERROR: the arm,
at rest, is FAULTED with the segment as resume point, its drives off and ARM_FAULT set (R56, R57, R59, R60). -/
def Obligations.SegmentsEnd : Prop :=
  ∀ (s : State) (a : Arm) (counts : Counts) (g : Segment), s.Shaped → s.BetweenCommands → s.doing a = .inFlight g →
    g.req.kind.isHome = false → (s.arm a).mot.stop = none →
    let u := s.opened.modScale a (fun sc => { sc with count := Axes.of (fun i => if sc.signal.get i then counts.get i else sc.count.get i) })
    let v := u.modMot a (fun m => { m with shown := u.position a })
    let h := { v.modMot a (fun m => { m with commanded := some g.req.target }) with
      zones := s.zones.map (fun z => if z.holder = some a ∧ meetsZone (envelope u a) z = false then { z with holder := none } else z) }
    let ends (w : State) : Prop := ∃ t, Sys2Proof.Machine.exec (.segmentComplete a counts) s = .next t ∧ ShownFrom w t
    ((s.arm a).scale.homed = true → s.noZoneWait a.other →
      (∀ x, (((u.position a).get x) - g.req.target.get x).natAbs ≤ (s.inst.arms.get a).band) →
      let probes (w : State) (r : SegReq) : Prop :=
        let x := { w.setResume a none with zones := grantZones a (neededSet w a r) w.zones }
        targetInLimits w a r.target = true → claimable w.zones a (neededSet w a r) = true → ProbesFreely x a r → ends (x.probing a r)
      (∀ i len, g.req.kind = .move → Completing h a i len → ends (h.completed a i len)) ∧
      (∀ f k, (s.arm a).cap.item = some (.scan f) → g.req.kind = .leg k →
        (k < f.waypoints.length → probes (h.modCap a (fun c => { c with phase := .leg (k + 1) }))
          { kind := .leg (k + 1), target := f.waypoints.getD k ⟨0, 0, 0⟩, feed := f.feed, sweep := f.waypoints }) ∧
        (f.waypoints.length ≤ k → (s.arm a).cap.sample ≠ none →
          ends ((h.modCap a (fun c => { c with sampleTimer := none })).setDoing a (.awaitSample g.req))) ∧
        ∀ i len, f.waypoints.length ≤ k → (s.arm a).cap.sample = none → (∀ q ∈ (s.arm a).wr.chain, 1 ≤ q.count) →
          let w := (h.modCap a Capture.cleared).modWr a (fun w => { w with
            grant := none, counts := { w.counts with dropped := min (w.counts.dropped + (s.arm a).cap.dropped) 65535 } })
          Completing w a i len → ends (w.completed a i len)) ∧
      (∀ c, g.req.kind = .changeMove → (s.arm a).change = some c →
        let port := s.rack.port c.port
        let opening (x : ChangeStep) : Change := { c with step := x, opened := if c.port ∈ c.opened then c.opened else c.port :: c.opened }
        (c.step = .d1 → (port.probe = none ∧ port.occ = .empty → ends (h.awaiting a (opening .d2) 2000 [.openLid c.port])) ∧
          (¬ (port.probe = none ∧ port.occ = .empty) → s.Unfaulted a → ends (h.faultedAt a .portNotEmpty (.changeStep .d1)))) ∧
        (∀ q, c.step = .d3 → (s.arm a).head.supplyOn = true → (s.arm a).head.occ = .probe q →
          ends ((h.modHead a (fun h =>
            { h with supplyOn := false, supplyChecked := false, ctx := { h.ctx with state := .unpowered } })).awaiting a { c with step := .d5 }
              500 [.supply a false, .release a])) ∧
        (c.step = .d8move → ends (h.awaiting a { c with step := .d8close } 2000 [.closeLid c.port])) ∧
        (c.step = .p1 → (port.probe = some c.probe ∧ port.occ = .occupied → ends (h.awaiting a (opening .p2open) 2000 [.openLid c.port])) ∧
          (¬ (port.probe = some c.probe ∧ port.occ = .occupied) → s.Unfaulted a → ends (h.faultedAt a .portEmpty (.changeStep .p1)))) ∧
        (c.step = .p2dock → ends (h.awaiting a { c with step := .p3lock, attempts := 1 } 500 [.lock a])) ∧
        (c.step = .p7move → (port.occ = .empty → ends (h.awaiting a { c with step := .p8 } 2000 [.closeLid c.port])) ∧
          (port.occ ≠ .empty → c.confirm = none → ends (h.awaiting a { c with step := .p7confirm } 500 [])) ∧
          ∀ d, port.occ ≠ .empty → c.confirm = some d →
            ends ((h.awaiting a { c with step := .p7confirm } 500 []).setDoing a (.changing d)))) ∧
      ∀ e, (s.arm a).cap.item = some (.touch e) →
        let S := (s.arm a).cap.startPos
        let retract (k : SegKind) : SegReq := { kind := k, target := S, feed := e.retractFeed, sweep := [S, e.target] }
        let begins (w : State) (r : SegReq) : Prop := StartsFreely w a r → ends (w.flying a r)
        (g.req.kind.isPass = true → (s.arm a).cap.attempts < 1 + e.retries →
          begins (h.modCap a (fun c => { c with phase := .retractRetry })) (retract .retractRetry)) ∧
        (g.req.kind.isPass = true → 1 + e.retries ≤ (s.arm a).cap.attempts →
          begins (h.modCap a (fun c => { c with phase := .retractEnd })) (retract .retractEnd)) ∧
        (g.req.kind = .retractRetry → probes (h.modCap a (fun c => { c with phase := .pass1, attempts := c.attempts + 1, hit := none }))
          (passTo .pass1 S e.target e.touchFeed)) ∧
        (g.req.kind = .backoff → probes (h.modCap a (fun c => { c with phase := .pass2 })) (passTo .pass2 S e.target e.measureFeed)) ∧
        (g.req.kind = .retractEnd → (s.arm a).cap.dropped = 0 → (s.arm a).wr.counts.dropped ≤ 65535 →
          (∀ i len, (s.arm a).cap.pointTaken = true → (∀ q ∈ (s.arm a).wr.chain, 1 ≤ q.count) →
            let w := (h.modCap a Capture.cleared).modWr a (fun w => { w with grant := none })
            Completing w a i len → ends (w.completed a i len)) ∧
          ∀ p, (s.arm a).cap.pointTaken = false → (s.arm a).exec.plan = some p →
            (p.miss = 2 → s.Unfaulted a → ends (h.faultedAt a .touchMissed .touchAgain)) ∧
            ∀ q i len, p.miss ≠ 2 → OnePage s a q →
              let w := ((h.withRecord a p q (missRecord h a (s.arm a).cap.attempts)).modCap a Capture.cleared).modWr a (fun w =>
                { w with grant := none })
              Completing w a i len → ends (w.completed a i len))) ∧
    ((∃ x, (s.inst.arms.get a).band < (((u.position a).get x) - g.req.target.get x).natAbs) →
      ends u ∧
      (s.Unfaulted a → (s.arm a).scale.latch = none → ∃ t, Sys2Proof.Machine.exec (.inPositionTimeout a counts) s = .next t ∧
        ShownFrom (v.faultedAt a .followingError (.segment g.req)) t))

/-- The frame, the boxes and the feed. A machine point and its frame point are sign × each + offset, each the other's inverse (R73). The
envelope box is the frame point widened by the half-widths; two closed boxes intersect where on each axis neither lies beyond the other,
and a box meets only zones in use (R74). The swept box is the smallest that holds the frame points of the start and of the segment's points,
widened; the needed set is the zones it meets, and for a HOME every zone in use (R75). A claim is granted where no needed zone is the other
arm's, and then every free needed zone is the arm's (R77). The effective feed is the smallest of the requested feed, the arm's maximum feed, the
probe's speed limit where the context is not NONE, and the speed limits of the zones the swept box intersects (R54). The path
acceleration of a profile is the largest for which no moving axis exceeds its limit, as a ratio to the path length; the profile is a
triangle exactly where the path is shorter than the feed's square over the path acceleration (R55). -/
def Obligations.FeedAndProfile : Prop :=
  (∀ (f : Axes FrameConst) (p : Vec3), (∀ i, (toFrame f p).get i = (f.get i).sign * p.get i + (f.get i).offset) ∧
    ((∀ i : Axis, (f.get i).sign = 1 ∨ (f.get i).sign = -1) → fromFrame f (toFrame f p) = p ∧ toFrame f (fromFrame f p) = p)) ∧
  (∀ (s : State) (a : Arm) (i : Axis), let h : Int := ((s.inst.half.get a).get i : Nat)
    let here : Int := (toFrame (s.inst.frame.get a) (s.position a)).get i
    (envelope s a).lo.get i = here - h ∧ (envelope s a).hi.get i = here + h ∧
    ∀ r : SegReq, let points := s.position a :: r.sweep
      let at_ (p : Vec3) : Int := (toFrame (s.inst.frame.get a) p).get i
      (∀ p ∈ points, (sweptBox s a r).lo.get i ≤ at_ p - h ∧ at_ p + h ≤ (sweptBox s a r).hi.get i) ∧
      (∃ p ∈ points, (sweptBox s a r).lo.get i = at_ p - h) ∧ ∃ p ∈ points, (sweptBox s a r).hi.get i = at_ p + h) ∧
  (∀ (b : Box) (z : Zone), meetsZone b z = true ↔ z.inUse = true ∧ ∀ i : Axis, b.lo.get i ≤ z.box.hi.get i ∧ z.box.lo.get i ≤ b.hi.get i) ∧
  (∀ (s : State) (a : Arm) (r : SegReq) (n : Nat), n ∈ neededSet s a r ↔ ∃ z, s.zones[n]? = some z ∧
    if r.kind.isHome then z.inUse = true else meetsZone (sweptBox s a r) z = true) ∧
  (∀ (zs : List Zone) (a : Arm) (need : List Nat), (claimable zs a need = true ↔ ∀ n ∈ need, zoneHolder zs n ≠ some a.other) ∧
    (grantZones a need zs).length = zs.length ∧
    ∀ n z, zs[n]? = some z → (grantZones a need zs)[n]? =
      some (if n ∈ need ∧ z.holder = none then { z with holder := some a } else z)) ∧
  (∀ (s : State) (a : Arm) (r : SegReq) (f : Nat), f ≤ effectiveFeed s a r ↔
    f ≤ r.feed ∧ f ≤ (s.inst.arms.get a).maxFeed ∧ ((s.arm a).head.ctx.state ≠ .none → f ≤ (s.arm a).head.ctx.copy.speedLimit) ∧
      ∀ z ∈ s.zones, meetsZone (sweptBox s a r) z = true → f ≤ z.speedLimit) ∧
  ∀ (k : Axes AxisConst) (p q : Vec3) (feed : Nat), p ≠ q →
    let r := profileOf k p q feed
    0 < r.accDen ∧ (∃ i, q.get i ≠ p.get i ∧ r.accNum * (q.get i - p.get i).natAbs = (k.get i).accel * r.accDen) ∧
    (∀ i, r.accNum * (q.get i - p.get i).natAbs ≤ (k.get i).accel * r.accDen ∨ q.get i = p.get i) ∧
    (r.pathSq : Int) = (q.x - p.x) ^ 2 + (q.y - p.y) ^ 2 + (q.z - p.z) ^ 2 ∧
    (r.triangle = true ↔ r.accNum * r.pathSq < 1000 * feed * feed * r.accDen)

/-! ### Items (R37 to R41, R61 to R63, R92 to R94, R97, R104, R123, R165 to R168, R178) -/

/-- A MOVE that meets nothing in its way: its target plus the pattern offset at its feed, its zones claimed, the context refreshed, the
feed fixed and a clamp counted, the segment in flight; drives that are off are enabled first, all three, the scale position their
commanded position, and their ready reports awaited for 1,000 ms (R39, R53, R54, R59 to R61, R77, R90). -/
def Obligations.MoveTakesOff : Prop :=
  ∀ (s : State) (a : Arm) (target : Vec3) (feed : Nat), s.Shaped → s.BetweenCommands → handedItem s a = some (.move target feed) →
    let p : Vec3 := ⟨target.x + (s.arm a).exec.pattern.x, target.y + (s.arm a).exec.pattern.y, target.z + (s.arm a).exec.pattern.z⟩
    let r : SegReq := { kind := .move, target := p, feed := feed, sweep := [p] }
    StartsFreely s a r → ∃ t, Sys2Proof.Machine.exec (.move a) s = .next t ∧ ShownFrom (s.opened.flying a r) t

/-- What keeps a MOVE from starting: a target outside the soft limits is TRAVEL_LIMIT before any claim; a zone that the other arm holds
puts the arm in ZONE_WAIT as the waiter of the lowest-numbered such zone, ARM_WAIT set, no zone granted; and where the other arm waits for
a zone this one holds, it is ZONE_DEADLOCK with no wait entered (R53, R57, R58, R77, R78). With the zones granted, the refresh
that finds the entry of the probe on the head absent is PROBE_ABSENT, and one that does not permit the arm PROBE_ARM; else it copies the entry
into the context, and for any other head entry 0 (R53, R89, R90). -/
def Obligations.MoveIsKeptBack : Prop :=
  ∀ (s : State) (a : Arm) (target : Vec3) (feed : Nat), s.Shaped → s.BetweenCommands → handedItem s a = some (.move target feed) →
    s.Unfaulted a →
    let p : Vec3 := ⟨target.x + (s.arm a).exec.pattern.x, target.y + (s.arm a).exec.pattern.y, target.z + (s.arm a).exec.pattern.z⟩
    let r : SegReq := { kind := .move, target := p, feed := feed, sweep := [p] }
    let v := { s.opened with zones := grantZones a (neededSet s a r) s.zones }
    (∀ q, targetInLimits s a r.target = true → claimable s.zones a (neededSet s a r) = true → (s.arm a).head.occ = .probe q →
      ((s.probe q).present = false → ∃ t, Sys2Proof.Machine.exec (.move a) s = .next t ∧
        ShownFrom (v.faultedAt a .probeAbsent (.segment r)) t) ∧
      ((s.probe q).present = true → (s.probe q).permission.allows a = false → ∃ t, Sys2Proof.Machine.exec (.move a) s = .next t ∧
        ShownFrom (v.faultedAt a .probeArm (.segment r)) t) ∧
      ((s.probe q).present = true → (s.probe q).permission.allows a = true → refresh a s =
        s.modHead a (fun h => { h with ctx := { h.ctx with index := q, copy := s.probe q } }))) ∧
    ((∀ q, (s.arm a).head.occ ≠ .probe q) → refresh a s = s.modHead a (fun h => { h with ctx := Context.null })) ∧
    ((∃ i, r.target.get i < ((s.inst.axes.get a).get i).lower ∨ ((s.inst.axes.get a).get i).upper < r.target.get i) →
      ∃ t, Sys2Proof.Machine.exec (.move a) s = .next t ∧ ShownFrom (s.opened.faultedAt a .travelLimit (.segment r)) t) ∧
    (∀ n, targetInLimits s a r.target = true → n ∈ neededSet s a r → zoneHolder s.zones n = some a.other →
      (∀ k ∈ neededSet s a r, k < n → zoneHolder s.zones k ≠ some a.other) →
      (s.noZoneWait a.other → ∃ t, Sys2Proof.Machine.exec (.move a) s = .next t ∧
        ShownFrom { (s.opened.modCap a (fun c => { c with sampleTimer := none })).modMot a (fun m =>
          { m with
            state := .zoneWait, resume := none
            doing := .zoneWait r (neededSet s a r)
              (if s.inst.zoneWait = 0 then none else some { start := s.now, len := s.inst.zoneWait * 1000000 }) }) with
          zones := s.zones.modify n (fun z => { z with waiter := some a, waitStart := some s.now })
          cause := s.cause ||| causeWord .armWait } t) ∧
      (∀ k r' need' d', s.doing a.other = .zoneWait r' need' d' → waitedZone s.zones a.other = some k → zoneHolder s.zones k = some a →
        ∃ t, Sys2Proof.Machine.exec (.move a) s = .next t ∧ ShownFrom (s.opened.faultedAt a .zoneDeadlock (.zones r)) t))

/-- The wait limits: at the zone wait's limit the wait ends, the arm is the waiter of no zone, and takes ZONE_TIMEOUT with the waiting
segment as resume point (R81, R82); at the rack wait's limit it is the rack's waiter no longer and takes RACK_TIMEOUT, to ask for the rack
again (R107). Neither timer acts before its time (notes/assumptions/4.md). -/
def Obligations.WaitLimitsFault : Prop :=
  ∀ (s : State) (a : Arm) (d : Timer), s.Shaped → s.BetweenCommands → s.Unfaulted a →
    (∀ r need, s.doing a = .zoneWait r need (some d) →
      (d.len ≤ (s.now - d.start).toNat → ∃ t, Sys2Proof.Machine.exec (.zoneWaitTimeout a) s = .next t ∧
        ShownFrom (({ s.opened with
          zones := s.zones.map (fun z => if z.waiter = some a then { z with waiter := none, waitStart := none } else z) } : State).faultedAt a
            .zoneTimeout (.zones r)) t) ∧
      ((s.now - d.start).toNat < d.len → ∃ t, Sys2Proof.Machine.exec (.zoneWaitTimeout a) s = .next t ∧ ShownFrom s.opened t)) ∧
    (s.doing a = .rackWait d → s.rack.waiter = some a →
      (d.len ≤ (s.now - d.start).toNat → ∃ t, Sys2Proof.Machine.exec (.rackWaitTimeout a) s = .next t ∧
        ShownFrom (({ s.opened with rack := { s.rack with waiter := none } } : State).faultedAt a .rackTimeout .rack) t) ∧
      ((s.now - d.start).toNat < d.len → ∃ t, Sys2Proof.Machine.exec (.rackWaitTimeout a) s = .next t ∧ ShownFrom s.opened t))

/-- A DWELL runs its timer for its time in ms, the state as it was, and completes when the timer expires (R62). That the timer starts with the
DWELL's own row, and that an expiry before its time does nothing, are the model's choices, notes/assumptions/13.md and notes/assumptions/4.md.
The fetch that follows decodes the item at the pointer by section 11.5: head, layout and ranges give the item, BAD_PROBE_INDEX for an index
out of range, else BAD_ITEM (R29, R30). It ends the plan COMPLETED at the end of its items (R34), WITHDRAWN with the flag set (R43), without
an outcome where the slot is no longer TAKEN (R35), and FAILED with LIBRARY_GONE, BAD_ITEM, the item's fault or NOT_HOMED (R28, R29, R31, R32,
R36, R45). -/
def Obligations.DwellRunsItsTime : Prop :=
  ∀ (s : State) (a : Arm), s.Shaped → s.BetweenCommands →
    (∀ n, handedItem s a = some (.dwell n) → ∃ t, Sys2Proof.Machine.exec (.dwell a) s = .next t ∧
      ShownFrom (s.opened.setDoing a (.dwelling { start := s.now, len := n * 1000 })) t) ∧
    (∀ d i len, s.doing a = .dwelling d → d.len ≤ (s.now - d.start).toNat → Completing s a i len →
      ∃ t, Sys2Proof.Machine.exec (.dwellTimerExpiry a) s = .next t ∧ ShownFrom (s.opened.completed a i len) t) ∧
    (∀ d, s.doing a = .dwelling d → (s.now - d.start).toNat < d.len →
      ∃ t, Sys2Proof.Machine.exec (.dwellTimerExpiry a) s = .next t ∧ ShownFrom s.opened t) ∧
    (∀ d p, s.doing a = .dwelling d → d.len ≤ (s.now - d.start).toNat → (s.arm a).mot.holdPending = false →
      (s.arm a).mot.state = .running →
      let e := itemDone (s.arm a).exec
      let u := s.opened.modExec a (fun _ => e)
      let ends (w : State) : Prop := ∃ t, Sys2Proof.Machine.exec (.dwellTimerExpiry a) s = .next t ∧ ShownFrom w t
      (u.PlanAlone a p →
        (withdrawSet s.mem p.slot = true → ends (u.planEnded a p .withdrawn .none)) ∧
        (withdrawSet s.mem p.slot = false → e.stack ≠ [] → readTag s.mem (slotBase e.slot) ≠ tagLibrary →
          ends (u.planEnded a p .failed .libraryGone)) ∧
        (withdrawSet s.mem p.slot = false → e.stack = [] ∨ readTag s.mem (slotBase e.slot) = tagLibrary →
          (e.headerDue = true ∧ (4032 < e.slotLen ∨ e.slotLen % 8 ≠ 0)) ∨
            (e.policyDue = true ∧ ∃ c ∈ [p.miss, p.expiredProbe, p.expiredTemp], c ≠ 1 ∧ c ≠ 2) →
          ends (u.planEnded a p .failed .badItem)) ∧
        (FetchReaches s p e → e.offset = e.slotLen → e.stack = [] → ends (u.planEnded a p .completed .none)) ∧
        (FetchReaches s p e → e.offset ≠ e.slotLen →
          (∀ f, decodeItem s.mem e.slot e.offset (e.slotLen - e.offset) = .inl f → ends (u.planEnded a p .failed f)) ∧
          ∀ i len, decodeItem s.mem e.slot e.offset (e.slotLen - e.offset) = .inr (i, len) → i.isMotion = true →
            (s.arm a).scale.homed = false → ends (u.planEnded a p .failed .notHomed))) ∧
      ∀ v : Nat, readTag s.mem (slotBase p.slot) = v → v ≠ tagTaken → (s.arm a).cap.dropped = 0 → (s.arm a).wr.counts.dropped ≤ 65535 →
        (s.arm a).wr.chain = [] → s.rack.holder ≠ some a → (s.arm a).exec.plan = some p → ends (u.planDropped a .slotRevoked)) ∧
    ∀ (m : Mem) (slot off left : Nat), let b := slotBase slot + 64 + off
      (∀ i len, decodeItem m slot off left = .inr (i, len) ↔ ∃ k, HeadAt m b left k len ∧ Laid m b k len ∧ BodyAt m b k i) ∧
      (decodeItem m slot off left = .inl .badProbeIndex ↔ ∃ k len, HeadAt m b left k len ∧ Laid m b k len ∧ ProbeIndexBad m b k) ∧
      ∀ f, decodeItem m slot off left = .inl f → f = .badItem ∨ f = .badProbeIndex

/-- A HOME with no scale lost, every zone in use free or the arm's own and the drives enabled: every zone in use becomes the arm's, the
homed flag is cleared, and the Z axis searches at its creep feed in HOMING, its drives enabled first where they are off; a LOST axis is
SCALE_FAULT before any motion (R48, R60, R63, R75). -/
def Obligations.HomeSearchesEveryZone : Prop :=
  ∀ (s : State) (a : Arm), s.Shaped → s.BetweenCommands → handedItem s a = some .home →
    let r : SegReq := { kind := .home [.Z, .Y, .X], target := ⟨0, 0, 0⟩, feed := 0, sweep := [] }
    ((∀ i, (s.arm a).scale.signal.get i = true) → (∀ z ∈ s.zones, z.inUse = true → z.holder ≠ some a.other) → drivesOn s a = true →
      ∃ t, Sys2Proof.Machine.exec (.home a) s = .next t ∧
        ShownFrom ((({ s.opened with zones := s.zones.map (fun z : Zone => if z.inUse then { z with holder := some a } else z) } : State).modScale a
          (fun sc => { sc with homed := false })).modMot a (fun m =>
            { m with
              state := .homing, resume := none, stop := none, commanded := none
              doing := .inFlight { req := r, start := s.position a, effective := (s.inst.axes.get a).z.creep,
                                   profile := .search .Z (-1) (s.inst.axes.get a).z.accel, marked := false
                                   begun := s.now } })) t) ∧
    ((∀ i, (s.arm a).scale.signal.get i = true) → (∀ z ∈ s.zones, z.inUse = true → z.holder ≠ some a.other) → drivesOn s a = false →
      ∃ t, Sys2Proof.Machine.exec (.home a) s = .next t ∧
        ShownFrom ((({ s.opened with zones := s.zones.map (fun z : Zone => if z.inUse then { z with holder := some a } else z) } : State).setResume
          a none).enabling a r 0) t) ∧
    ((∃ i, (s.arm a).scale.signal.get i = false) → s.Unfaulted a →
      ∃ t, Sys2Proof.Machine.exec (.home a) s = .next t ∧
        ShownFrom ((s.opened.modScale a (fun sc => { sc with homed := false })).faultedAt a .scaleFault (.home [.Z, .Y, .X])) t)

/-- A TOUCH or a SCAN asks for room: where its chain has none and the view holds too few pages, or too few that are still GIVEN, it waits in
ROOM_WAIT with ARM_WAIT set, no page taken (R123, R172). With room in its current page, or with the further pages it needs reserved, the lowest
of the view, those left out whose tag is no longer GIVEN, each headed and linked behind the page before it, the grant is the records asked, and
so it is at the scan that finds the pages for a waiting request (R3, R172, R173; the scan at one moment: the model's choice,
notes/assumptions/32.md). The item record and S are then taken, and PASS1 toward E, or LEG 1 toward
waypoint 1 with its sample timer, is started: zones claimed, context refreshed, orientation selected and copied, feed fixed (R122, R125, R131,
R135). An open shadow is waited for (R99), before the checks (the model's reading, notes/assumptions/15.md). The checks of a probing start
fail in the order of R91 and then R124, and the first that fails is the fault of the arm, the segment its resume point (R53, R57). That a SCAN
takes S at its grant too is the model's choice, notes/assumptions/42.md. -/
def Obligations.CaptureItemsAskForRoom : Prop :=
  (∀ (s : State) (a : Arm) (i : Item) (n : Nat) (p : Plan), s.Shaped → s.BetweenCommands → (s.arm a).exec.plan = some p →
    ((∃ f, i = .touch f ∧ n = 1) ∨ ∃ f, i = .scan f ∧ n = f.maxPoints) →
    let c : Instr := (match i with
      | .scan _ => .scan a
      | _ => .touch a)
    let shift (v : Vec3) : Vec3 :=
      ⟨v.x + (s.arm a).exec.pattern.x, v.y + (s.arm a).exec.pattern.y, v.z + (s.arm a).exec.pattern.z⟩
    let record : Option CaptureItem := (match i with
      | .touch f => some (.touch { f with target := shift f.target })
      | .scan f => some (.scan { f with waypoints := f.waypoints.map shift })
      | _ => none)
    let taken := { (s.arm a).cap.cleared with item := record, phase := .room, attempts := 1 }
    let stalls (u : State) : Prop := ∃ t, Sys2Proof.Machine.exec c s = .next t ∧
      ShownFrom { ((u.modCap a (fun _ => taken)).modWr a (fun w => { w with waiting := some { n := n, time := s.now } })).modMot a
        (fun m => { m with state := .roomWait, doing := .roomWait, resume := none }) with cause := u.cause ||| causeWord .armWait } t
    let begins (c : Instr) (w : State) : Prop :=
      let ends (u : State) : Prop := ∃ t, Sys2Proof.Machine.exec c s = .next t ∧ ShownFrom u t
      let S := s.position a
      let r : SegReq := (match i with
        | .scan f => { kind := .leg 1, target := (f.waypoints.map shift).headD ⟨0, 0, 0⟩, feed := f.feed, sweep := f.waypoints.map shift }
        | .touch f => passTo .pass1 S (shift f.target) f.touchFeed
        | _ => passTo .pass1 S S 0)
      let u := ((w.modCap a (fun _ => { taken with startPos := S, phase := if r.kind.isLeg then .leg 1 else .pass1 })).modWr a
        (fun w => { w with grant := some n })).setResume a none
      let v := { u with zones := grantZones a (neededSet s a r) s.zones }
      targetInLimits s a r.target = true → claimable s.zones a (neededSet s a r) = true →
      (ProbesFreely v a r → ends (v.probing a r)) ∧
      (refreshFault v a = none → (s.arm a).head.shadow ≠ none →
        ends (((refresh a v).modCap a (fun k => { k with sampleTimer := none })).modMot a (fun m =>
          { m with state := .running, doing := .shadowWait r }))) ∧
      (refreshFault v a = none → (s.arm a).head.shadow = none → s.Unfaulted a → ∀ f, probingStartFault (refresh a v) a r.kind.isLeg = some f →
        ends ((refresh a v).faultedAt a f (.segment r)))
    (handedItem s a = some i →
      ((s.arm a).mot.state.stands = false → roomLeft (s.arm a).wr < n → s.view.length < pagesNeeded (s.arm a).wr n → stalls s.opened) ∧
      ((s.arm a).mot.state.stands = false → roomLeft (s.arm a).wr < n → pagesNeeded (s.arm a).wr n ≤ s.view.length →
        s.view.Pairwise (· < ·) → (s.view.filter s.gives).length < pagesNeeded (s.arm a).wr n →
        stalls { s.opened.foundTaken s.view with view := s.view.filter s.gives }) ∧
      (n ≤ roomLeft (s.arm a).wr → begins c s.opened) ∧
      ∀ tried rest, s.Reserves a n tried rest → begins c (s.opened.reservedAll a p tried rest)) ∧
    (∀ x, s.doing a = .roomWait → (s.arm a).exec.item = some i → (s.arm a).wr.waiting = some { n := n, time := x } →
      (s.arm a).cap = taken → (s.arm a).mot.resume = none → QuietScan s → waits (s.arm a.other).mot = false →
      (s.arm a.other).wr.waiting = none →
      (roomLeft (s.arm a).wr < n → (givenPages s).length < pagesNeeded (s.arm a).wr n → withdrawSet s.mem p.slot = false →
        ∃ t, Sys2Proof.Machine.exec .tagScan s = .next t ∧ ShownFrom s.opened.swept t) ∧
      ∀ tried rest, s.opened.swept.Reserves a n tried rest →
        begins .tagScan ((s.opened.swept.reservedAll a p tried rest).modWr a (fun w => { w with waiting := none })))) ∧
  ∀ (s : State) (a : Arm) (p : Plan) (isScan : Bool), (s.arm a).exec.plan = some p →
    let h := (s.arm a).head
    let fault := probingStartFault s a isScan
    let unfit : Prop := (isScan = true ∧ h.ctx.copy.kind = .touch) ∨ (isScan = false ∧ h.ctx.copy.kind = .scan)
    let oriented : Prop := ∃ o ∈ h.ctx.copy.orients, h.orient = some (o.tilt, o.swivel)
    let expired : Prop := (∃ i, ((s.thermal.published.groups.scale.get a).get i).state = .expired) ∨
      ((s.maps.parts.get a).on = true ∧ (s.thermal.published.groups.part.get a).state = .expired)
    (h.ctx.state = .none → fault = some .probeNone) ∧
    (h.ctx.state ≠ .none →
      (unfit → fault = some .probeKind) ∧
      (¬ unfit →
        (¬ oriented → fault = some .orientUnqualified) ∧
        (oriented →
          (h.ctx.state = .unpowered → fault = some .probeNotReady) ∧
          (h.ctx.state ≠ .unpowered →
            (h.ctx.copy.qualification ≠ .qualified ∧ p.expiredProbe = 2 → fault = some .probeExpired) ∧
            (¬ (h.ctx.copy.qualification ≠ .qualified ∧ p.expiredProbe = 2) →
              (expired ∧ p.expiredTemp = 2 → fault = some .tempExpired) ∧ (¬ (expired ∧ p.expiredTemp = 2) → fault = none))))))

/-- A MARK writes its record into the next place of its current page, with its host tag and the current timestamp, counts it (the count
wrapping, the model's choice, notes/assumptions/77.md), and completes; the grant is released (R174, R176, R177, R178, R179). The 63rd record
closes the page: FILLED, PAGE_CLOSED set, out of the chain (R175). Without a page the lowest of the view is reserved first: tagged FILLING,
its header written, and with the first record the sequence number of it (R172, R174); a page whose tag is no longer GIVEN leaves the view with
TAG_CONFLICT reported, and the next is taken, or the arm waits for room (R3, R10, R123, R172). A waiting MARK is considered at each new view:
granted its page it goes on within the scan, else it waits on (R173; the scan at one moment: the model's choice, notes/assumptions/32.md). An
arm that an event has brought to ESTOP, HELD or FAULTED meanwhile keeps that state at the boundary, and asks again for room it does not get
(notes/assumptions/13.md). -/
def Obligations.MarkWritesItsRecord : Prop :=
  ∀ (s : State) (a : Arm) (tag : Nat) (p : Plan) (i : Item) (len : Nat), s.Shaped → s.BetweenCommands →
    (s.arm a).exec.plan = some p →
    (s.arm a).cap.dropped = 0 → (s.arm a).wr.counts.dropped ≤ 65535 →
    let r : RecordData :=
      { kind := .mark, item := (s.arm a).exec.index, iteration := repeatIteration (s.arm a).exec, attempts := 0, probe := 0, tilt := 0,
        swivel := 0, flags := RecordFlags.clear, time := s.now, dtPart := -32768, dtScale := ⟨-32768, -32768, -32768⟩,
        content := ⟨0, 0, 0⟩, hostTag := tag }
    let marked (v : State) (q : ChainPage) : State :=
      ((v.withRecord a p q r).modCap a Capture.cleared).modWr a (fun w => { w with grant := none })
    let stands : Prop := (s.arm a).mot.state = .estop ∨ (s.arm a).mot.state = .held ∨ (s.arm a).mot.state = .faulted
    let missing (q : Nat) : State := ({ s.opened with view := s.view.filter (fun x => x ≠ q) } : State).noted .tagConflict (pageBase q)
    let ends (v : State) : Prop := ¬ stands → let u := v.setArmState a .running
      Completing u a i len → ∃ t, Sys2Proof.Machine.exec (.mark a) s = .next t ∧ ShownFrom (u.completed a i len) t
    (handedItem s a = some (.mark tag) → (∀ q, OnePage s a q → ends (marked s.opened q)) ∧
    (∀ q rest, (s.arm a).wr.chain = [] → s.view = q :: rest → readTag s.mem (pageBase q) = tagGiven →
      ends (marked (s.opened.reserved a p q) { page := q, count := 0 })) ∧
    (∀ q q' rest, (s.arm a).wr.chain = [] → s.view = q :: q' :: rest → q ≠ q' → readTag s.mem (pageBase q) ≠ tagGiven →
      readTag s.mem (pageBase q') = tagGiven → ends (marked ((missing q).reserved a p q') { page := q', count := 0 })) ∧
    (∀ q, ¬ stands → (s.arm a).wr.chain = [] → s.view = [q] → readTag s.mem (pageBase q) ≠ tagGiven →
      ∃ t, Sys2Proof.Machine.exec (.mark a) s = .next t ∧
        ShownFrom { ((missing q).modWr a (fun w => { w with waiting := some { n := 1, time := s.now } })).modMot a (fun m =>
          { m with state := .roomWait, doing := .roomWait, resume := none }) with cause := (missing q).cause ||| causeWord .armWait } t) ∧
    (∀ q, stands → OnePage s a q → ∃ t, Sys2Proof.Machine.exec (.mark a) s = .next t ∧
      ShownFrom (((marked s.opened q).modExec a itemDone).restAt a .boundary) t) ∧
    (stands → (s.arm a).wr.chain = [] → s.view = [] → ∃ t, Sys2Proof.Machine.exec (.mark a) s = .next t ∧
      ShownFrom (s.opened.restAt a .room) t)) ∧
    (∀ x, s.doing a = .roomWait → (s.arm a).exec.item = some (.mark tag) → (s.arm a).wr.waiting = some { n := 1, time := x } →
      (s.arm a).wr.chain = [] → QuietScan s → waits (s.arm a.other).mot = false → (s.arm a.other).wr.waiting = none →
      (givenPages s = [] → withdrawSet s.mem p.slot = false → ∃ t, Sys2Proof.Machine.exec .tagScan s = .next t ∧ ShownFrom s.opened.swept t) ∧
      ∀ q rest, givenPages s = q :: rest →
        let u := ((marked (s.opened.swept.reserved a p q) { page := q, count := 0 }).modWr a (fun w => { w with waiting := none })).setArmState a
          .running
        Completing u a i len → ∃ t, Sys2Proof.Machine.exec .tagScan s = .next t ∧ ShownFrom (u.completed a i len) t)

/-- HEAD: the orientation becomes UNKNOWN and the index command is sent with its 3,000 ms timer. At the done report of that command the
orientation is the commanded pair, the shadow window opens for the settle time of the context's copy, none with a context of NONE, and the
item completes. At the expiry the halt command is sent and HEAD_TIMEOUT taken, the item to be done again; any other report, such as one of a
halted index, is dropped (R97, R98, R99). That a report names its command by the timestamp at which it was sent is the model's choice,
notes/assumptions/61.md; so is that HEAD_TIMEOUT drops a HOLD which waits for the item's end, notes/assumptions/71.md. -/
def Obligations.HeadIndexes : Prop :=
  ∀ (s : State) (a : Arm) (x w : Nat), s.Shaped → s.BetweenCommands →
    (handedItem s a = some (.head x w) → ∃ t, Sys2Proof.Machine.exec (.head a) s = .next t ∧
      ShownFrom { (s.modHead a (fun h => { h with orient := none })).setDoing a (.indexing { start := s.now, len := 3000000 }) with
        out := [.index a x w] } t) ∧
    (∀ d i len, s.doing a = .indexing d → (s.arm a).exec.item = some (.head x w) →
      let n := if (s.arm a).head.ctx.state = .none then 0 else (s.arm a).head.ctx.copy.settle
      let u := s.opened.modHead a (fun h =>
        { h with orient := some (x, w), shadow := if n = 0 then none else some { start := s.now, len := n * 1000 } })
      Completing u a i len → ∃ t, Sys2Proof.Machine.exec (.headIndexDone ⟨a, d.start⟩) s = .next t ∧ ShownFrom (u.completed a i len) t) ∧
    (∀ d, s.doing a = .indexing d → s.Unfaulted a → d.len ≤ (s.now - d.start).toNat →
      ∃ t, Sys2Proof.Machine.exec (.headTimerExpiry a) s = .next t ∧
        ShownFrom { s.faultedAt a .headTimeout .item with out := [.halt a] } t) ∧
    ∀ x : Stamp, (∀ d, s.doing a = .indexing d → x ≠ d.start) →
      ∃ t, Sys2Proof.Machine.exec (.headIndexDone ⟨a, x⟩) s = .next t ∧ ShownFrom s.opened t

/-- A CHANGE is judged in this order (R104): an UNIDENTIFIED head ends the plan with HEAD_UNIDENTIFIED; one to the probe on the head, or to an
empty head that is empty, has nothing to do and completes; a target entry that is absent is PROBE_ABSENT, one that does not permit the arm
PROBE_ARM, the item to be done again, the probe now on the head being not checked. Then the rack is claimed: held by the other arm it makes this
arm its waiter in RACK_WAIT, ARM_WAIT set and the rack wait timer running; granted, with the head EMPTY, the change record stands at P1 and the
move to the approach point of the target's home port is in flight; with another probe on the head the change record stands at D1 for the home
port of that probe (R105, R108, R109, R111, R113). -/
def Obligations.ChangeIsJudged : Prop :=
  ∀ (s : State) (a : Arm) (p : Nat), s.Shaped → s.BetweenCommands → handedItem s a = some (.change p) →
    let ends (u : State) : Prop := ∃ t, Sys2Proof.Machine.exec (.change a) s = .next t ∧ ShownFrom u t
    (∀ plan, (s.arm a).head.occ = .unidentified → s.PlanAlone a plan → ends (s.opened.planEnded a plan .failed .headUnidentified)) ∧
    (∀ i len, (s.arm a).head.occ = .probe p ∨ ((s.arm a).head.occ = .empty ∧ p = 0) → Completing s a i len →
      ends (s.opened.completed a i len)) ∧
    ((s.arm a).head.occ ≠ .unidentified → (s.arm a).head.occ ≠ .probe p → 1 ≤ p → s.Unfaulted a →
      ((s.probe p).present = false → ends (s.opened.faultedAt a .probeAbsent .item)) ∧
      ((s.probe p).present = true → (s.probe p).permission.allows a = false → ends (s.opened.faultedAt a .probeArm .item))) ∧
    ((s.arm a).head.occ ≠ .unidentified → (s.arm a).head.occ ≠ .probe p → ¬ ((s.arm a).head.occ = .empty ∧ p = 0) →
      p = 0 ∨ ((s.probe p).present = true ∧ (s.probe p).permission.allows a = true) →
      (s.rack.holder = some a.other → ends { ({ s.opened with rack := { s.rack with waiter := some a } } : State).modMot a (fun m =>
        { m with
          state := .rackWait, resume := none, doing := .rackWait { start := s.now, len := s.inst.rackWait * 1000000 } }) with
        cause := s.cause ||| causeWord .armWait }) ∧
      (s.rack.holder ≠ some a.other → (s.arm a).change = none →
        ((s.arm a).head.occ = .empty →
          let u := s.opened.picking a p
          let r := rackMove u a (s.probe p).homePort false
          StartsFreely u a r → ends (u.flying a r)) ∧
        ∀ q, (s.arm a).head.occ = .probe q →
          let u := ({ s.opened with rack := { s.rack with holder := some a } } : State).setChange a
            (some { target := p, step := .d1, port := (s.probe q).homePort, probe := q, attempts := 0, opened := [], confirm := none })
          let r := rackMove u a (s.probe q).homePort false
          StartsFreely u a r → ends (u.flying a r)))

/-- A CALL of a LIBRARY slot pushes its entry, with the repeat state moved into it, and fetches the slot's first item; STACK_WARN is set at the
warning depth while the warning is armed. A RETURN pops the top entry and fetches where it points; a fetch at the end of a library slot pops too
(R28), as that of a DWELL's completion shows. A REPEAT before a MOVE, TOUCH, SCAN or CALL sets the repeat state at iteration 0 and fetches the
governed item (R34, R37, R38, R40, R41). A CALL of another slot ends the plan with CALL_TARGET, one with the region full with STACK_OVERFLOW; a RETURN
at depth 0 and a REPEAT before anything else are BAD_ITEM (R32, R37, R40). The completion of an item outside a repeat moves the pointer past it, and
counts it in the taken slot itself; within a repeat it is done again at base + k × step while iterations remain, and at the last one the repeat state
goes, the offset is the base again, and the item is counted once. A pop restores what its entry holds, a governed CALL being done again while
iterations remain (R37, R41). That the repeat state governs whatever kind of item then stands there is the model's reading,
notes/assumptions/53.md. -/
def Obligations.ControlItems : Prop :=
  (∀ (s : State) (a : Arm) (i : Item) (len : Nat), s.Shaped → s.BetweenCommands → (s.arm a).mot.state = .running →
    (s.arm a).mot.holdPending = false →
    let e := (s.arm a).exec
    (∀ n, handedItem s a = some (.call n) → tagIs s (slotBase n) tagLibrary = true → e.stack.length < s.inst.regions.get a →
      let warns := e.stack.length + 1 = s.inst.regions.get a - 2 ∧ e.warnArmed = true
      let entry : CallEntry := (match e.rep with
        | none => { slot := e.slot, index := e.index + 1, offset := e.offset + 16, savedOffset := e.pattern, rep := none }
        | some r => { slot := e.slot, index := e.index, offset := e.offset, savedOffset := r.base, rep := some r })
      let e' : Executor := { e with
        stack := entry :: e.stack, rep := none, slot := n, slotLen := slotLength s.mem n, index := 0, offset := 0, headerDue := true
        item := none, warnArmed := if warns then false else e.warnArmed }
      Fetches s a e' i len → ∃ t, Sys2Proof.Machine.exec (.call a) s = .next t ∧
        ShownFrom ({ s.opened with cause := if warns then s.cause ||| causeWord .stackWarn else s.cause }.handing a e' i len) t) ∧
    (∀ c rest, handedItem s a = some .returnItem → e.stack = c :: rest →
      Fetches s a (popEntry (s.inst.regions.get a - 2) (slotLength s.mem c.slot) c rest e) i len →
      ∃ t, Sys2Proof.Machine.exec (.returnItem a) s = .next t ∧
        ShownFrom (s.opened.handing a (popEntry (s.inst.regions.get a - 2) (slotLength s.mem c.slot) c rest e) i len) t) ∧
    (∀ n step, handedItem s a = some (.repeatItem n step) → e.offset + e.itemLen < e.slotLen →
      readNat s.mem (slotBase e.slot + 64 + (e.offset + e.itemLen)) 2 ∈ [1, 4, 5, 8] →
      let e' : Executor := { e with
        index := e.index + 1, offset := e.offset + e.itemLen, item := none
        itemsDone := if e.stack = [] then e.itemsDone + 1 else e.itemsDone
        rep := some { remaining := n, iteration := 0, step := step, base := e.pattern } }
      Fetches s a e' i len → ∃ t, Sys2Proof.Machine.exec (.repeatItem a) s = .next t ∧ ShownFrom (s.opened.handing a e' i len) t) ∧
    ∀ d p c rest, s.doing a = .dwelling d → d.len ≤ (s.now - d.start).toNat → FetchReaches s p (itemDone e) →
      (itemDone e).offset = (itemDone e).slotLen → (itemDone e).stack = c :: rest →
      let e' := popEntry (s.inst.regions.get a - 2) (slotLength s.mem c.slot) c rest
        { itemDone e with headerDue := false, policyDue := false }
      Fetches s a e' i len → ∃ t, Sys2Proof.Machine.exec (.dwellTimerExpiry a) s = .next t ∧
        ShownFrom (s.opened.handing a e' i len) t) ∧
  (∀ (s : State) (a : Arm) (p : Plan), s.Shaped → s.BetweenCommands → s.PlanAlone a p →
    let e := (s.arm a).exec
    let fails (c : Instr) (f : FaultCode) : Prop := ∃ t, Sys2Proof.Machine.exec c s = .next t ∧ ShownFrom (s.opened.planEnded a p .failed f) t
    (∀ n, handedItem s a = some (.call n) →
      (readTag s.mem (slotBase n) ≠ tagLibrary → fails (.call a) .callTarget) ∧
      (readTag s.mem (slotBase n) = tagLibrary → s.inst.regions.get a ≤ e.stack.length → fails (.call a) .stackOverflow)) ∧
    (handedItem s a = some .returnItem → e.stack = [] → fails (.returnItem a) .badItem) ∧
    ∀ n step, handedItem s a = some (.repeatItem n step) →
      (e.slotLen ≤ e.offset + e.itemLen ∨ readNat s.mem (slotBase e.slot + 64 + (e.offset + e.itemLen)) 2 ∉ [1, 4, 5, 8]) →
      fails (.repeatItem a) .badItem) ∧
  (∀ e : Executor,
    let past (x : Executor) : Executor := { x with
      index := e.index + 1, offset := e.offset + e.itemLen, item := none
      itemsDone := if e.stack = [] then e.itemsDone + 1 else e.itemsDone }
    (e.rep = none → itemDone e = past e) ∧
    ∀ r, e.rep = some r →
      (r.remaining = 0 → itemDone e = past { e with rep := none, pattern := r.base }) ∧
      (0 < r.remaining → itemDone e = { e with
        item := none, rep := some { r with remaining := r.remaining - 1, iteration := r.iteration + 1 }
        pattern := ⟨r.base.x + (r.iteration + 1) * r.step.x, r.base.y + (r.iteration + 1) * r.step.y, r.base.z + (r.iteration + 1) * r.step.z⟩ })) ∧
  ∀ (warn len : Nat) (c : CallEntry) (rest : List CallEntry) (e : Executor) (p : Plan), e.plan = some p →
    let back : Executor := { e with
      slot := c.slot, stack := rest, index := c.index, offset := c.offset, pattern := c.savedOffset, rep := none
      slotLen := if rest = [] then p.len else len, headerDue := decide (rest ≠ []), warnArmed := e.warnArmed || decide (rest.length < warn) }
    let counted (x : Executor) : Executor := { x with itemsDone := if rest = [] then e.itemsDone + 1 else e.itemsDone }
    (c.rep = none → popEntry warn len c rest e = counted back) ∧
    ∀ r, c.rep = some r →
      (r.remaining = 0 → popEntry warn len c rest e = counted { back with index := c.index + 1, offset := c.offset + 16 }) ∧
      (0 < r.remaining → popEntry warn len c rest e = { back with
        rep := some { r with remaining := r.remaining - 1, iteration := r.iteration + 1 }
        pattern := ⟨r.base.x + (r.iteration + 1) * r.step.x, r.base.y + (r.iteration + 1) * r.step.y, r.base.z + (r.iteration + 1) * r.step.z⟩ })

/-- An UPDATE_PROBE replaces the selected fields of its entry, keeps the others and the location, and completes (R92); a single
orientation entry replaces the one with its pair, else entry k, else is appended: the pairs stay distinct, 8 at most (R93). A SET_LOCATION
of the null probe empties the head. One of a probe is PROBE_ABSENT where its entry is absent; a location that the table of R94 does not allow
(`LocationConflict`) ends the plan with LOCATION_CONFLICT. One of a probe in a port declares it UNKNOWN, the port's record with it; of the probe
on the own head, the head is UNIDENTIFIED, its supply off and its context NONE; of an UNKNOWN probe as UNKNOWN changes nothing; of an UNKNOWN
probe puts it in a free port, or on the arm's own head after the supply and identity steps, of which the first is begun, PROBE_ARM where its
entry does not permit the arm (R94, R95). -/
def Obligations.ProbeTableItems : Prop :=
  (∀ (s : State) (a : Arm), s.Shaped → s.BetweenCommands →
    (∀ u i len, handedItem s a = some (.updateProbe u) → 1 ≤ u.entry → u.entry ≤ 31 →
      let e := s.probe u.entry
      let e' : Probe :=
        { present := u.present.getD e.present, kind := u.kind.getD e.kind, identity := u.identity.getD e.identity
          permission := u.permission.getD e.permission, homePort := u.homePort.getD e.homePort, location := e.location
          speedLimit := u.speedLimit.getD e.speedLimit, settle := u.settle.getD e.settle, overtravel := u.overtravel.getD e.overtravel
          qualification := (match u.qualification with
            | none => e.qualification
            | some q => if q.isSome then .qualified else .unqualified)
          tq := (u.qualification.getD none).getD e.tq
          orients := (match u.orients, u.single with
            | some l, _ => l
            | none, some (k, o) => placeOrient k o e.orients
            | none, none => e.orients) }
      let v := { s.opened with probes := s.probes.set u.entry e' }
      Completing v a i len → ∃ t, Sys2Proof.Machine.exec (.updateProbe a) s = .next t ∧ ShownFrom (v.completed a i len) t) ∧
    let ends (u : State) : Prop := ∃ t, Sys2Proof.Machine.exec (.setLocation a) s = .next t ∧ ShownFrom u t
    let completes (v : State) : Prop := ∀ i len, Completing v a i len → ends (v.completed a i len)
    let bare : Prop := (s.arm a).head.occ = .empty ∨ (s.arm a).head.occ = .unidentified
    (handedItem s a = some (.setLocation 0 (.arm a)) → bare →
      completes (s.opened.modHead a (fun h => { h with occ := .empty, ctx := Context.null }))) ∧
    (∀ p l plan, handedItem s a = some (.setLocation p l) → p = 0 ∨ (s.probe p).present = true → LocationConflict s a p l →
      s.PlanAlone a plan → ends (s.opened.planEnded a plan .failed .locationConflict)) ∧
    (∀ p l, handedItem s a = some (.setLocation p l) → 1 ≤ p → (s.probe p).present = false → s.Unfaulted a →
      ends (s.opened.faultedAt a .probeAbsent .item)) ∧
    ∀ p l, handedItem s a = some (.setLocation p l) → 1 ≤ p → (s.probe p).present = true →
      let unknown : List Probe := s.probes.set p { s.probe p with location := .unknown }
      (∀ n, l = .unknown → (s.probe p).location = .port n → s.rack.holder ≠ some a.other → (s.arm a).head.occ ≠ .probe p →
        completes { s.opened with probes := unknown, rack := s.rack.without p }) ∧
      (l = .unknown → (s.probe p).location = .arm a → (s.arm a).head.occ = .probe p →
        ((s.arm a).head.supplyOn = false → (s.arm a).head.supplyChecked = false) →
        completes { ({ s with probes := unknown, rack := s.rack.without p } : State).headLost a with
          out := if (s.arm a).head.supplyOn then [.supply a false] else [] }) ∧
      (l = .unknown → (s.probe p).location = .unknown → (s.arm a).head.occ ≠ .probe p → (∀ q ∈ s.rack.ports, q.probe ≠ some p) →
        completes s.opened) ∧
      (∀ n, l = .port n → (s.probe p).location = .unknown → (s.rack.port n).probe = none → s.rack.holder ≠ some a.other →
        (∀ q ∈ s.rack.ports, q.probe ≠ some p) →
        completes { s.opened with
          probes := s.probes.set p { s.probe p with location := .port n }
          rack := { s.rack with ports := s.rack.ports.set n { s.rack.port n with probe := some p } } }) ∧
      (l = .arm a → (s.probe p).location = .unknown → bare →
        ((s.probe p).permission.allows a = true → ends { (s.modHead a (fun h =>
          { h with supplyOn := true, supplyChecked := false })).setDoing a (.locating false { start := s.now, len := 20000 }) with
          out := [.supply a true] }) ∧
        ((s.probe p).permission.allows a = false → s.Unfaulted a → ends (s.opened.faultedAt a .probeArm .item)))) ∧
  ∀ (l : List OrientEntry) (k : Nat) (o : OrientEntry), l.length ≤ 8 → k ≤ 7 → pairsDistinct l = true →
    (placeOrient k o l).length ≤ 8 ∧ pairsDistinct (placeOrient k o l) = true ∧
    (∀ i e, l[i]? = some e → e.tilt = o.tilt → e.swivel = o.swivel → placeOrient k o l = l.set i o) ∧
    ((∀ e ∈ l, ¬ (e.tilt = o.tilt ∧ e.swivel = o.swivel)) → placeOrient k o l = if k < l.length then l.set k o else l ++ [o])

/-- A LOAD_MAP of the arm's own map within the ranges, whose region meets no other loaded map's, loads its nodes and its descriptor in one
operation and completes (R166); a failed check ends the plan FAILED with MAP_ARM, MAP_RANGE or MAP_OVERLAP, in that order, the maps as they
stood (R165). A CLEAR_MAP of another arm ends it with MAP_ARM, and one whose axis or direction is not X, Y or Z with MAP_RANGE, in that order;
any other makes the descriptor absent (R167), and a SET_PART replaces the arm's part settings (R168). -/
def Obligations.CoordinateUnitItems : Prop :=
  ∀ (s : State) (a : Arm), s.Shaped → s.BetweenCommands →
    let fails (c : Instr) (k : FaultCode) : Prop := ∃ t, Sys2Proof.Machine.exec c s = .next t ∧ (t.arm a).exec.plan = none ∧
      (t.arm a).mot.lastFault = k ∧ t.maps = s.maps ∧ ∀ p, s.PlanAlone a p → ShownFrom (s.opened.planEnded a p .failed k) t
    (∀ f, handedItem s a = some (.loadMap f) →
      let ends (k : FaultCode) : Prop := fails (.loadMap a) k
      let ranges : Prop := 12 ≤ f.m ∧ f.m ≤ 26 ∧ 2 ≤ f.count ∧ f.count ≤ 1024 ∧ f.base ≤ 4095 ∧ f.base + f.count ≤ 4096
      (f.arm ≠ armCode a → ends .mapArm) ∧
      (f.arm = armCode a → (axisOfCode f.i = none ∨ axisOfCode f.j = none ∨ ¬ ranges) → ends .mapRange) ∧
      ∀ i j, f.arm = armCode a → axisOfCode f.i = some i → axisOfCode f.j = some j → ranges →
        ((∃ b k l d, s.maps.desc b k l = some d ∧ (b, k, l) ≠ (a, i, j) ∧ f.base < d.base + d.count ∧ d.base < f.base + f.count) →
          ends .mapOverlap) ∧
        ((∀ b k l d, s.maps.desc b k l = some d → (b, k, l) ≠ (a, i, j) → f.base + f.count ≤ d.base ∨ d.base + d.count ≤ f.base) →
          ∃ m : MapStore, m.nodes.length = 4096 ∧ m.parts = s.maps.parts ∧
            (∀ k, k < 4096 → m.nodes.getD k 0 =
              if f.base ≤ k ∧ k < f.base + f.count then f.nodes.getD (k - f.base) 0 else s.maps.nodes.getD k 0) ∧
            (∀ b k l, m.desc b k l =
              if (b, k, l) = (a, i, j) then some { s0 := f.s0, m := f.m, count := f.count, base := f.base } else s.maps.desc b k l) ∧
            ∀ n len, Completing s a n len →
              ∃ t, Sys2Proof.Machine.exec (.loadMap a) s = .next t ∧ ShownFrom ({ s.opened with maps := m }.completed a n len) t)) ∧
    (∀ b x y, handedItem s a = some (.clearMap b x y) →
      (b ≠ armCode a → fails (.clearMap a) .mapArm) ∧
      (b = armCode a → axisOfCode x = none ∨ axisOfCode y = none → fails (.clearMap a) .mapRange)) ∧
    (∀ x y i j n len, handedItem s a = some (.clearMap (armCode a) x y) → axisOfCode x = some i → axisOfCode y = some j →
      Completing s a n len → ∃ m : MapStore, m.nodes = s.maps.nodes ∧ m.parts = s.maps.parts ∧
        (∀ b k l, m.desc b k l = if (b, k, l) = (a, i, j) then none else s.maps.desc b k l) ∧
        ∃ t, Sys2Proof.Machine.exec (.clearMap a) s = .next t ∧ ShownFrom ({ s.opened with maps := m }.completed a n len) t) ∧
    ∀ r k on n len, handedItem s a = some (.setPart r k on) → Completing s a n len →
      ∃ t, Sys2Proof.Machine.exec (.setPart a) s = .next t ∧
        ShownFrom ({ s.opened with maps := { s.maps with parts := s.maps.parts.set a { datum := r, alpha := k, on := on } } }.completed a n len) t

/-! ### Probe changes, heads and captures (R87 to R135) -/

/-- Reports of the rack link are written into the record of their port (R103): a lid report its lid, an occupancy report its occupancy, a
status reply both for every port it names, which is awaited no longer; and 100 ms after the request the ports without reply have occupancy
UNKNOWN until their next occupancy report, a reply that comes later giving the lid alone. A status reply may name any ports and confirms no
step: the model's reading, notes/assumptions/36.md. A lid that a change awaits OPEN lets it move to the dock point, and a JAMMED one is
LID_JAM; OCCUPIED within 500 ms confirms D7 and the probe is in the port; EMPTY within 500 ms confirms P7, and the lid is commanded closed; a
later one is only recorded (R87, R110 to R115); a lid or occupancy report names no command, and the step that awaits it takes the next that
comes, the model's choice, notes/assumptions/61.md. Where the other arm has declared the probe on its own head meanwhile, D7 takes it off that head
in the same operation: UNIDENTIFIED, the supply off, the context NONE (R87, R88, R112; what that head becomes, within a segment too, is the
model's reading, notes/assumptions/30.md). A lid that reports CLOSED at D8 ends the DROP: the PICK begins, or the change is done. At P8
the probe is mounted, or its entry's fault taken with P5 to be done again, and the change is done: the rack is released, or granted at once to
the arm that waits for it, which begins its own change, and the CHANGE completes (R89, R106, R108, R112, R114). That the mount does not ask
whether the supply is on is the model's reading, notes/assumptions/58.md. -/
def Obligations.RackReportsAreRecorded : Prop :=
  ∀ s : State, s.Shaped → s.BetweenCommands →
    let idle : Prop := ∀ a c d, s.rack.holder = some a → ¬ AwaitsStep s a c d
    let tooLate : Prop := ∃ d, s.rack.statusTimer = some d ∧ d.len < (s.now - d.start).toNat
    let late (n : Nat) : Prop := n ∈ s.rack.missed ∨ (n ∈ s.rack.statusDue ∧ tooLate)
    let sensed (n : Nat) (b : Bool) (due : List Nat) : Rack := { s.rack with
      ports := s.rack.ports.set n { s.rack.port n with occ := if b then .occupied else .empty }, statusDue := due
      missed := s.rack.missed.filter (fun k => k ≠ n) }
    (∀ n l, idle → ∃ t, Sys2Proof.Machine.exec (.lidReport n l) s = .next t ∧
      ShownFrom { s.opened with rack := { s.rack with ports := s.rack.ports.set n { s.rack.port n with lid := l } } } t) ∧
    (∀ n b, idle → ∃ t, Sys2Proof.Machine.exec (.occupancyReport n b) s = .next t ∧
      (¬ tooLate → ShownFrom { s.opened with rack := sensed n b s.rack.statusDue } t) ∧
      (tooLate → ShownFrom { s.opened with rack := sensed n b (s.rack.statusDue.filter (fun k => k ≠ n)) } t)) ∧
    (∀ l : List PortReply, (l.map (fun r => r.port)).Nodup → ∃ (ports : List Port) (due : List Nat), ports.length = 16 ∧
      (∀ n, n < 16 →
        (∀ r ∈ l, r.port = n → (¬ late n → ports.getD n Port.blank =
            { s.rack.port n with occ := if r.occupied then .occupied else .empty, lid := r.lid }) ∧
          (late n → ports.getD n Port.blank = { s.rack.port n with lid := r.lid })) ∧
        ((∀ r ∈ l, r.port ≠ n) → ports.getD n Port.blank = s.rack.port n)) ∧
      (∀ n, n ∈ due ↔ n ∈ s.rack.statusDue ∧ (late n ∨ ∀ r ∈ l, r.port ≠ n)) ∧
      ∃ t, Sys2Proof.Machine.exec (.rackStatusReply l) s = .next t ∧
        ShownFrom { s.opened with rack := { s.rack with ports := ports, statusDue := due } } t) ∧
    (∀ d, s.rack.statusTimer = some d → d.len ≤ (s.now - d.start).toNat → ∃ ports : List Port, ports.length = 16 ∧
      (∀ n, n < 16 → ports.getD n Port.blank =
        if n ∈ s.rack.statusDue then { s.rack.port n with occ := .unknown } else s.rack.port n) ∧
      ∃ t, Sys2Proof.Machine.exec .rackStatusTimeout s = .next t ∧
        ShownFrom { s.opened with rack :=
          { s.rack with ports := ports, statusTimer := none, statusDue := [], missed := s.rack.statusDue ++ s.rack.missed } } t) ∧
    ∀ a c d, s.rack.holder = some a → AwaitsStep s a c d →
      (let shut : State :=
          { s.opened with rack := { s.rack with ports := s.rack.ports.set c.port { s.rack.port c.port with lid := .closed } } }
        let b := a.other
        let ends (w : State) : Prop := ∃ t, Sys2Proof.Machine.exec (.lidReport c.port .closed) s = .next t ∧ ShownFrom w t
        let done (u : State) : Prop := ∀ i len,
          (s.rack.waiter = none →
            let w := { u.setChange a none with rack := { u.rack with holder := none } }
            Completing w a i len → ends (w.completed a i len)) ∧
          ∀ p x, s.rack.waiter = some b → s.doing b = .rackWait x → (s.arm b).change = none → (s.arm b).exec.item = some (.change p) →
            1 ≤ p → (s.arm b).head.occ = .empty →
            let w := { u.setChange a none with rack := { u.rack with waiter := none } }
            let v := (w.completed a i len).picking b p
            let r := rackMove v b (s.probe p).homePort false
            Completing w a i len → StartsFreely v b r → ends (v.flying b r)
        (c.step = .d8close → (s.arm a).head.occ = .empty → (c.target = 0 → done shut) ∧
          (1 ≤ c.target →
            let n := (s.probe c.target).homePort
            let u := shut.setChange a (some { c with step := .p1, port := n, probe := c.target, attempts := 0 })
            let r := rackMove u a n false
            StartsFreely u a r → ends (u.flying a r))) ∧
        ∀ q, c.step = .p8 → (s.arm a).head.occ = .probe q →
          let e := s.probe c.probe
          (e.present = true → e.permission.allows a = true → q = c.target →
            done (shut.modHead a (fun h => { h with
              ctx := { index := c.probe, copy := e, state := .ready, selected := none }
              shadow := if e.settle = 0 then none else some { start := s.now, len := e.settle * 1000 } }))) ∧
          ∀ f, (s.arm a).head.supplyOn = true → s.Unfaulted a →
            (e.present = false ∧ f = .probeAbsent) ∨ (e.present = true ∧ e.permission.allows a = false ∧ f = .probeArm) →
            ends { (shut.modHead a (fun h =>
              { h with supplyOn := false, supplyChecked := false, ctx := { h.ctx with state := .unpowered } })).faultedAt a f
                (.changeStep .p5) with out := [.supply a false] }) ∧
      (c.step = .d2 ∨ c.step = .p2open →
        (let u := ({ s.opened with rack := { s.rack with ports := s.rack.ports.set c.port { s.rack.port c.port with lid := .opened } } }
            : State).setChange a (some { c with step := if c.step = .d2 then .d3 else .p2dock })
          let r := rackMove u a c.port true
          StartsFreely u a r → ∃ t, Sys2Proof.Machine.exec (.lidReport c.port .opened) s = .next t ∧ ShownFrom (u.flying a r) t) ∧
        (s.Unfaulted a → ∃ t, Sys2Proof.Machine.exec (.lidReport c.port .jammed) s = .next t ∧
          ShownFrom (({ s.opened with rack := { s.rack with ports := s.rack.ports.set c.port { s.rack.port c.port with lid := .jammed } } }
            : State).faultedAt a .lidJam (.changeStep (if c.step = .d2 then .d1 else .p1))) t)) ∧
      (c.step = .d7 → ¬ tooLate → (s.now - d.start).toNat ≤ d.len → c.port < 16 → c.probe < 32 →
        let b := a.other
        let v := sensed c.port true s.rack.statusDue
        let u := ({ s.opened with
          probes := s.probes.set c.probe { s.probe c.probe with location := .port c.port }
          rack := { v with ports := ((v.without c.probe).ports.set c.port { (v.without c.probe).port c.port with probe := some c.probe }) } }
            : State).setChange a (some { c with step := .d8move })
        let r := rackMove u a c.port false
        let ends (w : State) : Prop := StartsFreely w a r → ∃ t, Sys2Proof.Machine.exec (.occupancyReport c.port true) s = .next t ∧
          ShownFrom (w.flying a r) t
        ((s.arm b).head.occ ≠ .probe c.probe → ends u) ∧
        ((s.arm b).head.occ = .probe c.probe → ((s.arm b).head.supplyOn = false → (s.arm b).head.supplyChecked = false) →
          ends { u.headLost b with out := if (s.arm b).head.supplyOn then [.supply b false] else [] })) ∧
      (c.step = .d7 ∨ c.step = .p7confirm → ¬ tooLate → d.len < (s.now - d.start).toNat → ∀ b,
        ∃ t, Sys2Proof.Machine.exec (.occupancyReport c.port b) s = .next t ∧
          ShownFrom { s.opened with rack := sensed c.port b s.rack.statusDue } t) ∧
      (c.step = .p7confirm → ¬ tooLate → (s.now - d.start).toNat ≤ d.len → ∃ t, Sys2Proof.Machine.exec (.occupancyReport c.port false) s = .next t ∧
        ShownFrom (({ s.opened with rack := sensed c.port false s.rack.statusDue } : State).awaiting a { c with step := .p8 } 2000
          [.closeLid c.port]) t)

/-- The coupling's reports. Locked at P3, the probe is on the head in one operation, its context a copy, UNPOWERED, and the supply is switched
on for P5. Unlocked at D5, the probe is UNKNOWN and the head EMPTY in one operation, the context NONE, and D7 awaits the port's sensor;
unlocked after a failed lock, the lock command is sent again. A report that no step awaits, or that answers an earlier command, has no effect
(R87, R103, R112 to R114, R117). That a report names its command by the timestamp at which it was sent is the model's choice,
notes/assumptions/61.md. -/
def Obligations.ChangeStepsAreConfirmed : Prop :=
  ∀ (s : State) (a : Arm), s.Shaped → s.BetweenCommands →
    (∀ c d, AwaitsStep s a c d →
      let e (l : Location) : Probe := { s.probe c.probe with location := l }
      let moved (l : Location) : State := { s.opened with probes := s.probes.set c.probe (e l), rack := s.rack.without c.probe }
      (c.step = .p3lock → c.probe < 32 → ∃ t, Sys2Proof.Machine.exec (.couplingLocked ⟨a, d.start⟩) s = .next t ∧
        ShownFrom { (moved (.arm a)).setArm a { s.arm a with
          change := some { c with step := .p5 }
          head := { (s.arm a).head with
            occ := .probe c.probe, ctx := { index := c.probe, copy := e (.arm a), state := .unpowered, selected := none }
            supplyOn := true, supplyChecked := false }
          mot := { (s.arm a).mot with state := .running, doing := .changing { start := s.now, len := 20000 }, resume := none } } with
          out := [.supply a true] } t) ∧
      (c.step = .d5 → (s.rack.port c.port).occ ≠ .occupied → ∃ t, Sys2Proof.Machine.exec (.couplingUnlocked ⟨a, d.start⟩) s = .next t ∧
        ShownFrom ((moved .unknown).setArm a { s.arm a with
          change := some { c with step := .d7 }
          head := { (s.arm a).head with occ := .empty, ctx := Context.null }
          mot := { (s.arm a).mot with state := .running, doing := .changing { start := s.now, len := 500000 }, resume := none } }) t) ∧
      (c.step = .p3unlock → ∃ t, Sys2Proof.Machine.exec (.couplingUnlocked ⟨a, d.start⟩) s = .next t ∧
        ShownFrom { s.setArm a { s.arm a with
          change := some { c with step := .p3lock, attempts := c.attempts + 1 }
          mot := { (s.arm a).mot with state := .running, doing := .changing { start := s.now, len := 500000 }, resume := none } } with
          out := [.lock a] } t)) ∧
    ∀ x : Stamp, (∀ c d, AwaitsStep s a c d → x ≠ d.start) →
      (∃ t, Sys2Proof.Machine.exec (.couplingLocked ⟨a, x⟩) s = .next t ∧ ShownFrom s.opened t) ∧
      ∃ t, Sys2Proof.Machine.exec (.couplingUnlocked ⟨a, x⟩) s = .next t ∧ ShownFrom s.opened t

/-- The timers of a change. At its expiry: a lid step is LID_TIMEOUT, to begin again at D1 or P1 for a lid to be opened and at its own step
for one to be closed; D5 is RELEASE_FAULT, to begin again at D1; D7 is DROP_UNCONFIRMED; P7 is PICK_UNCONFIRMED; a lock attempt is followed
by a release and, at the unlock or 500 ms later, the next lock, and the last one by a release and LOCK_FAULT, to begin again at P1 (R110,
R112 to R115). None acts before its time (notes/assumptions/4.md). -/
def Obligations.ChangeTimersRunOut : Prop :=
  ∀ (s : State) (a : Arm) (c : Change) (d : Timer), s.Shaped → s.BetweenCommands → AwaitsStep s a c d →
    (d.len ≤ (s.now - d.start).toNat → s.Unfaulted a →
      (c.step = .d2 → ∃ t, Sys2Proof.Machine.exec (.lidTimerExpiry a) s = .next t ∧
        ShownFrom (s.opened.faultedAt a .lidTimeout (.changeStep .d1)) t) ∧
      (c.step = .p2open → ∃ t, Sys2Proof.Machine.exec (.lidTimerExpiry a) s = .next t ∧
        ShownFrom (s.opened.faultedAt a .lidTimeout (.changeStep .p1)) t) ∧
      (c.step = .d8close ∨ c.step = .p8 → ∃ t, Sys2Proof.Machine.exec (.lidTimerExpiry a) s = .next t ∧
        ShownFrom (s.opened.faultedAt a .lidTimeout (.changeStep c.step)) t) ∧
      (c.step = .d5 → ∃ t, Sys2Proof.Machine.exec (.releaseTimerExpiry a) s = .next t ∧
        ShownFrom (s.opened.faultedAt a .releaseFault (.changeStep .d1)) t) ∧
      (c.step = .d7 → ∃ t, Sys2Proof.Machine.exec (.dropConfirmTimeout a) s = .next t ∧
        ShownFrom (s.opened.faultedAt a .dropUnconfirmed (.changeStep .d7)) t) ∧
      (c.step = .p7confirm → ∃ t, Sys2Proof.Machine.exec (.pickConfirmTimeout a) s = .next t ∧
        ShownFrom (s.opened.faultedAt a .pickUnconfirmed (.changeStep .p7confirm)) t) ∧
      (c.step = .p3lock → 1 + s.inst.lockRetries ≤ c.attempts → ∃ t, Sys2Proof.Machine.exec (.lockTimerExpiry a) s = .next t ∧
        ShownFrom { s.faultedAt a .lockFault (.changeStep .p1) with out := [.release a] } t) ∧
      (c.step = .p3lock → c.attempts < 1 + s.inst.lockRetries → ∃ t, Sys2Proof.Machine.exec (.lockTimerExpiry a) s = .next t ∧
        ShownFrom { s.setArm a { s.arm a with
          change := some { c with step := .p3unlock }
          mot := { (s.arm a).mot with state := .running, doing := .changing { start := s.now, len := 500000 }, resume := none } } with
          out := [.release a] } t) ∧
      (c.step = .p3unlock → ∃ t, Sys2Proof.Machine.exec (.unlockWaitExpiry a) s = .next t ∧
        ShownFrom { s.setArm a { s.arm a with
          change := some { c with step := .p3lock, attempts := c.attempts + 1 }
          mot := { (s.arm a).mot with state := .running, doing := .changing { start := s.now, len := 500000 }, resume := none } } with
          out := [.lock a] } t)) ∧
    ((s.now - d.start).toNat < d.len →
      ∀ k ∈ [Instr.lidTimerExpiry a, .releaseTimerExpiry a, .dropConfirmTimeout a, .pickConfirmTimeout a, .lockTimerExpiry a,
          .unlockWaitExpiry a],
        ∃ t, Sys2Proof.Machine.exec k s = .next t ∧ ShownFrom s.opened t)

/-- A supply with a current within the limit 20 ms after the switch-on lets a SET_LOCATION or a pick ask for the identity; above it it is
switched off and SUPPLY_FAULT taken, the item or P5 to be done again (R95, R100, R114, R115). A later overcurrent switches the supply off, the context
of a probe UNPOWERED; within the limit it does nothing. Without a plan SUPPLY_FAULT is recorded; a segment in flight begins to stop; any other
activity or wait of a plan ends, the arm FAULTED with the point of `OvercurrentLeaves`, that of a SET_LOCATION's steps the item, of P6 that step, of a
MOVE not in flight Boundary; a fetched non-motion item is still to complete in FAULTED; a FAULTED arm and one in ESTOP record the fault, the steps of a SET_LOCATION ending there too (R57,
R69, R95, R101, R117). Where the end of a plan awaits a sample, the outcome of an ABORT or STOP takes the fault, that of a withdrawal none. The
awaited identity mounts the probe of a SET_LOCATION, the entry present, permitting the arm and UNKNOWN, and completes it (R87, R89, R95); found absent
or not permitting it is PROBE_ABSENT or PROBE_ARM, elsewhere LOCATION_CONFLICT ends the plan; another code leaves the head UNIDENTIFIED, and so does
no probe coupled or no reply within 100 ms unless the head is EMPTY, and ends the plan with IDENT_MISMATCH; the supply goes off at each (R95). In a
pick the awaited identity lets it move to the approach point; another code, that of no probe coupled, or no reply makes the probe UNKNOWN and the
head UNIDENTIFIED, the supply off, and is IDENT_MISMATCH, from which a RESUME ends the plan with HEAD_UNIDENTIFIED (R114, R116). A reply to an
abandoned request is dropped (R95, R117). The model's own: notes/assumptions/61.md, how a reply names its request; 4.md, an early timeout does
nothing; 71.md, SUPPLY_FAULT drops a waiting HOLD; 23.md and 80.md, the fault while an end awaits a sample; and 12.md, 13.md, 31.md, 54.md,
59.md, 66.md and 72.md, what else it ends and where it goes on. -/
def Obligations.SupplyAndIdentity : Prop :=
  ∀ (s : State) (a : Arm) (d : Timer), s.Shaped → s.BetweenCommands →
    let reply (k : Option (BitVec 16)) : Instr := .identityReply a { asked := d.start, code := k }
    let within : Prop := (s.now - d.start).toNat ≤ d.len
    (∀ n, s.doing a = .locating false d → d.len ≤ (s.now - d.start).toNat →
      (n ≤ s.inst.supplyLimit → ∃ t, Sys2Proof.Machine.exec (.supplyCheck a n) s = .next t ∧
        ShownFrom { (s.modHead a (fun h => { h with supplyChecked := true })).setDoing a (.locating true { start := s.now, len := 100000 }) with
          out := [.identityRequest a] } t) ∧
      (s.inst.supplyLimit < n → (s.arm a).head.supplyOn = true → s.Unfaulted a →
        ∃ t, Sys2Proof.Machine.exec (.supplyCheck a n) s = .next t ∧
          ShownFrom { (s.modHead a (fun h => { h with supplyOn := false, supplyChecked := false })).faultedAt a .supplyFault .item with
            out := [.supply a false] } t)) ∧
    (∀ c n, AwaitsStep s a c d → c.step = .p5 → d.len ≤ (s.now - d.start).toNat →
      (n ≤ s.inst.supplyLimit → ∃ t, Sys2Proof.Machine.exec (.supplyCheck a n) s = .next t ∧
        ShownFrom ((s.opened.modHead a (fun h => { h with supplyChecked := true, ctx := { h.ctx with state := .ready } })).awaiting a
          { c with step := .p6 } 100 [.identityRequest a]) t) ∧
      ∀ q, s.inst.supplyLimit < n → (s.arm a).head.supplyOn = true → (s.arm a).head.occ = .probe q → s.Unfaulted a →
        ∃ t, Sys2Proof.Machine.exec (.supplyCheck a n) s = .next t ∧
          ShownFrom { (s.modHead a (fun h =>
            { h with supplyOn := false, supplyChecked := false, ctx := { h.ctx with state := .unpowered } })).faultedAt a .supplyFault
              (.changeStep .p5) with out := [.supply a false] } t) ∧
    (∀ n, (s.arm a).head.supplyOn = true → (s.arm a).head.supplyChecked = true →
      let ends (x : State) : Prop := ∃ t, Sys2Proof.Machine.exec (.overcurrent a n) s = .next t ∧ ShownFrom x t
      let u : State := { s.modHead a (fun h =>
        { h with
          supplyOn := false, supplyChecked := false
          ctx := (match h.occ with
            | .probe _ => { h.ctx with state := .unpowered }
            | _ => h.ctx) }) with out := [.supply a false] }
      (n ≤ s.inst.supplyLimit → ends s.opened) ∧
      (s.inst.supplyLimit < n →
        (s.hasPlan a = false → ends (u.recorded a .supplyFault)) ∧
        (∀ g, s.doing a = .inFlight g → ends (u.stopping a (Stop.faulted .supplyFault))) ∧
        (∀ o f, s.doing a = .ending o f →
          (o ≠ .withdrawn → ends (u.setDoing a (.ending o (if f = .scaleFault then .scaleFault else .supplyFault)))) ∧
          (o = .withdrawn → ends ((u.recorded a .supplyFault).setDoing a (.ending .withdrawn .none)))) ∧
        (s.hasPlan a = true → s.Unfaulted a →
          (∀ w r q, FaultEnds s a w r → OvercurrentLeaves s a r q → (∀ k x, s.doing a ≠ .locating k x) →
            (∀ c x, AwaitsStep s a c x → c.step ≠ .p5 ∧ c.step ≠ .p6) → (∀ i, handedItem s a = some i → i.runsOut = false) →
            ends ((w u).faultedAt a .supplyFault q)) ∧
          (∀ k x, s.doing a = .locating k x → ends (u.faultedAt a .supplyFault .item)) ∧
          (∀ c x, AwaitsStep s a c x → c.step = .p5 ∨ c.step = .p6 → ends (u.faultedAt a .supplyFault (.changeStep c.step))) ∧
          ∀ i, handedItem s a = some i → i.runsOut = true → ends { u.modMot a (fun m =>
            { m with state := .faulted, lastFault := .supplyFault, wakeTimer := none, holdPending := false }) with
            cause := s.cause ||| causeWord .armFault }) ∧
        (s.hasPlan a = true → (s.arm a).mot.state = .faulted ∨ (s.arm a).mot.state = .estop → (∀ g, s.doing a ≠ .inFlight g) →
          (∀ o f, s.doing a ≠ .ending o f) →
          ((∀ k x, s.doing a ≠ .locating k x) → ends (u.recorded a .supplyFault)) ∧
          ∀ k x, s.doing a = .locating k x → ends ((u.recorded a .supplyFault).standing a (s.arm a).mot.state .item)))) ∧
    (∀ p l (k : BitVec 16), s.doing a = .locating true d → (s.arm a).exec.item = some (.setLocation p l) →
      (∀ i len, within → (s.probe p).present = true → (s.probe p).permission.allows a = true → (s.probe p).location = .unknown →
        k.toNat = (s.probe p).identity →
        let e : Probe := { s.probe p with location := .arm a }
        let v := ({ s.opened with probes := s.probes.set p e, rack := s.rack.without p } : State).modHead a (fun h =>
          { h with
            occ := .probe p, ctx := { index := p, copy := e, state := .ready, selected := none }
            shadow := if e.settle = 0 then none else some { start := s.now, len := e.settle * 1000 } })
        Completing v a i len → ∃ t, Sys2Proof.Machine.exec (reply (some k)) s = .next t ∧ ShownFrom (v.completed a i len) t) ∧
      (within → k.toNat = (s.probe p).identity → (s.arm a).head.supplyOn = true →
        let ends (x : State) : Prop := ∃ t, Sys2Proof.Machine.exec (reply (some k)) s = .next t ∧ ShownFrom x t
        let off : State := { s.modHead a (fun h => { h with supplyOn := false, supplyChecked := false }) with out := [.supply a false] }
        ((s.probe p).present = false → s.Unfaulted a → ends (off.faultedAt a .probeAbsent .item)) ∧
        ((s.probe p).present = true → (s.probe p).permission.allows a = false → s.Unfaulted a → ends (off.faultedAt a .probeArm .item)) ∧
        ∀ q, (s.probe p).present = true → (s.probe p).permission.allows a = true → (s.probe p).location ≠ .unknown → s.PlanAlone a q →
          ends (off.planEnded a q .failed .locationConflict)) ∧
      ∀ q, within → k.toNat ≠ (s.probe p).identity → (s.arm a).head.supplyOn = true → s.PlanAlone a q →
        ∃ t, Sys2Proof.Machine.exec (reply (some k)) s = .next t ∧
          ShownFrom { (s.modHead a (fun h => { h with supplyOn := false, supplyChecked := false, occ := .unidentified })).planEnded a q
            .failed .identMismatch with out := [.supply a false] } t) ∧
    (s.doing a = .locating true d →
      ((s.now - d.start).toNat < d.len → ∃ t, Sys2Proof.Machine.exec (.identityTimeout a) s = .next t ∧ ShownFrom s.opened t) ∧
      ∀ q, (s.arm a).head.supplyOn = true → s.PlanAlone a q →
        let u := { (s.modHead a (fun h =>
          { h with supplyOn := false, supplyChecked := false, occ := if h.occ = .empty then .empty else .unidentified })).planEnded a q
            .failed .identMismatch with out := [.supply a false] }
        (∀ k, k = none ∨ ¬ within → ∃ t, Sys2Proof.Machine.exec (reply k) s = .next t ∧ ShownFrom u t) ∧
        (d.len ≤ (s.now - d.start).toNat → ∃ t, Sys2Proof.Machine.exec (.identityTimeout a) s = .next t ∧ ShownFrom u t)) ∧
    (∀ c, AwaitsStep s a c d → c.step = .p6 →
      let lost : State := { (({ s with
        probes := s.probes.set c.probe { s.probe c.probe with location := .unknown }, rack := s.rack.without c.probe } : State).headLost
          a).faultedAt a .identMismatch (.changeStep .mismatch) with out := if (s.arm a).head.supplyOn then [.supply a false] else [] }
      let supplied : Prop := (s.arm a).head.supplyOn = false → (s.arm a).head.supplyChecked = false
      (d.len ≤ (s.now - d.start).toNat → supplied → s.Unfaulted a →
        ∃ t, Sys2Proof.Machine.exec (.identityTimeout a) s = .next t ∧ ShownFrom lost t) ∧
      ((s.now - d.start).toNat < d.len → ∃ t, Sys2Proof.Machine.exec (.identityTimeout a) s = .next t ∧ ShownFrom s.opened t) ∧
      (∀ k, (∀ x, k = some x → x.toNat ≠ (s.probe c.probe).identity) ∨ ¬ within → supplied → s.Unfaulted a →
        ∃ t, Sys2Proof.Machine.exec (reply k) s = .next t ∧ ShownFrom lost t) ∧
      ∀ k : BitVec 16, within → k.toNat = (s.probe c.probe).identity →
        let u := s.opened.setChange a (some { c with step := .p7move, confirm := none })
        let r := rackMove u a c.port false
        StartsFreely u a r → ∃ t, Sys2Proof.Machine.exec (reply (some k)) s = .next t ∧ ShownFrom (u.flying a r) t) ∧
    (s.doing a = .locating true d ∨ (∃ c, AwaitsStep s a c d ∧ c.step = .p6) → ∀ x k, x ≠ d.start →
      ∃ t, Sys2Proof.Machine.exec (.identityReply a { asked := x, code := k }) s = .next t ∧ ShownFrom s.opened t) ∧
    ∀ p c, Resumes s a (.changeStep .mismatch) → (s.arm a).change = some c → s.device = .running → s.resetting = false →
      s.rack.holder = some a → s.rack.waiter = none →
      let u : State := { s.opened.setChange a none with
        rack := { s.rack with holder := none }
        out := (c.opened.filter (fun n => decide ((s.rack.port n).lid ≠ .closed))).map LinkOut.closeLid }
      u.PlanAlone a p →
      ∃ t, Sys2Proof.Machine.exec (.resume (selOf a)) s = .next t ∧ ShownFrom (u.planEnded a p .failed .headUnidentified) t

/-- A trigger with the latch armed and empty fills it with the counts and the timestamp of its instant: in a pass of a TOUCH the arm begins to
stop, in any other segment but a leg it is UNEXPECTED_CONTACT; elsewhere, and where the edge came before the segment in flight began (the
completion of the one before was taken first), the trigger is ignored and counted (R119, R120, R125, R128; an edge at the very timestamp of
the beginning counts as before it, notes/assumptions/69.md; a stop of a SOFT_RESET disarms the latch as any other, notes/assumptions/63.md;
the shadow window is judged as the trigger is taken, notes/assumptions/76.md). At the end of the shadow window the window closes, and a
probing segment that waits for it is in flight (R99). That the refresh and the checks of the waiting start are made at the window's end is the
model's choice, notes/assumptions/15.md; so is that a window's end which comes before its time does nothing, notes/assumptions/4.md. -/
def Obligations.TriggersAndShadow : Prop :=
  ∀ (s : State) (a : Arm), s.Shaped → s.BetweenCommands →
    (∀ e : Edge,
      let l : Latch := { counts := Axes.of (fun i => if (s.arm a).scale.signal.get i then e.counts.get i else (s.arm a).scale.count.get i)
                         time := e.time, source := .trigger }
      let v := s.opened.modScale a (fun sc => { sc with latch := some l })
      let within (g : Segment) : Prop := (s.now - e.time).toNat < (s.now - g.begun).toNat
      (∀ g, s.doing a = .inFlight g → within g → g.req.kind.isLeg = false → (s.arm a).mot.stop = none → (s.arm a).head.shadow = none →
        (s.arm a).scale.latch = none →
        (g.req.kind.isPass = true → ∃ t, Sys2Proof.Machine.exec (.trigger a e) s = .next t ∧
          ShownFrom ((v.modCap a (fun c => { c with sampleTimer := none })).modMot a (fun m => { m with stop := some Stop.plain })) t) ∧
        (g.req.kind.isPass = false → ∃ t, Sys2Proof.Machine.exec (.trigger a e) s = .next t ∧
          ShownFrom (v.stoppingFor a .unexpectedContact) t)) ∧
      ((∀ g, s.doing a = .inFlight g → g.req.kind.isLeg = true ∨ (s.arm a).mot.stop ≠ none ∨ (s.arm a).head.shadow ≠ none ∨
          (s.arm a).scale.latch ≠ none ∨ ¬ within g) → ∃ t, Sys2Proof.Machine.exec (.trigger a e) s = .next t ∧
        ShownFrom (s.opened.modCap a (fun c => { c with ignoredTriggers := c.ignoredTriggers + 1 })) t)) ∧
    ∀ d, (s.arm a).head.shadow = some d →
      (d.len ≤ (s.now - d.start).toNat →
        let u := s.opened.modHead a (fun h => { h with shadow := none })
        ((∀ r, s.doing a ≠ .shadowWait r) → ∃ t, Sys2Proof.Machine.exec (.shadowEnd a) s = .next t ∧ ShownFrom u t) ∧
        ∀ r, s.doing a = .shadowWait r → ProbesFreely u a r →
          ∃ t, Sys2Proof.Machine.exec (.shadowEnd a) s = .next t ∧ ShownFrom (u.probing a r) t) ∧
      ((s.now - d.start).toNat < d.len → ∃ t, Sys2Proof.Machine.exec (.shadowEnd a) s = .next t ∧ ShownFrom s.opened t)

/-- A SCAN's sample instant takes the counts and the timestamp into the sample in flight, asks for the deflection, and sets the timer to the
next instant; a sample still in flight completes as NO_DEFLECTION first (R131, R132). The reply, or 1 ms without one, completes the sample,
whatever the arm does (R134). Beyond the overtravel limit it is DEFLECTION_LIMIT: a leg in flight begins to stop, or its stop takes on the fault;
an arm at rest with a plan is FAULTED with its resume point, or, FAULTED or in ESTOP already, records the fault. Once the points are the maximum
the sample is dropped and counted; and else its point is compensated and its record placed, the count of the plan wrapping (the model's choice,
notes/assumptions/77.md), with OFF_WINDOW outside the deflection window and NO_DEFLECTION without a reply. A SCAN whose last leg has ended
completes with its last sample, and a plan whose end awaits the sample ends then, the dropped points counted, its page closed, the zones released
after an ABORT or STOP (R66, R72, R131, R134, R175). A reply that answers no sample in flight is dropped (R132 to R135, R174). The record of a
point or of a MISS has the item's index and repeat iteration, that of the innermost repeat, on the call stack where the executor has none of its
own, and 0 without one (R34, R42, R177), its flags from the published set, the context of the point's segment and the chain, and the temperatures, PART's none with
part compensation off (R135, R154, R163, R164). The model's readings: a DEFLECTION_LIMIT while the end awaits the sample goes into the outcome,
notes/assumptions/23.md, but not that of a withdrawal, notes/assumptions/80.md, whose end awaits the sample too, notes/assumptions/46.md; in a
wait it ends the wait, notes/assumptions/67.md and 79.md. -/
def Obligations.SamplesOfAScan : Prop :=
  (∀ (s : State) (a : Arm), s.Shaped → s.BetweenCommands →
    (∀ d, (∀ x, (s.arm a).cap.sample = some x → x.time ≠ d.asked) →
      ∃ t, Sys2Proof.Machine.exec (.deflectionReply a d) s = .next t ∧ ShownFrom s.opened t) ∧
    ∀ f, (s.arm a).cap.item = some (.scan f) →
      let point (x : Sample) (d : Option Vec3) : RecordData :=
        let v := d.getD ⟨0, 0, 0⟩
        let size := max (max v.x.natAbs v.y.natAbs) v.z.natAbs
        pointRecord s a
          { kind := .scan, counts := x.counts, time := x.time, deflection := v, noDeflection := d.isNone
            offWindow := d.isSome && (decide (size < f.lo * 1000) || decide (f.hi * 1000 < size)), attempts := 1, ctx := x.ctx }
      let dropping (u : State) : State := u.modCap a (fun k => { k with dropped := k.dropped + 1 })
      let recording (u : State) (p : Plan) (q : ChainPage) (r : RecordData) : State :=
        (u.modCap a (fun k => { k with points := k.points + 1 })).withRecord a p q r
      (∀ counts d, (s.arm a).cap.sampleTimer = some d → d.len ≤ (s.now - d.start).toNat →
        let u := s.modScale a (fun sc => { sc with count := Axes.of (fun i => if sc.signal.get i then counts.get i else sc.count.get i) })
        let takes (w : State) : Prop := ∃ t, Sys2Proof.Machine.exec (.sampleTimerExpiry a counts) s = .next t ∧
          ShownFrom { w.modCap a (fun c =>
            { c with
              sampleTimer := some { start := d.start + BitVec.ofNat 48 d.len, len := f.period }
              sample := some { counts := (u.arm a).scale.count, time := s.now, timer := { start := s.now, len := 1000 }
                               ctx := (s.arm a).cap.ctx } }) with
            out := [.deflectionRequest a] } t
        ((s.arm a).cap.sample = none → takes u) ∧
        ∀ x, (s.arm a).cap.sample = some x →
          (f.maxPoints ≤ (s.arm a).cap.points → takes (dropping u)) ∧
          ∀ p q, (s.arm a).cap.points < f.maxPoints → (s.arm a).exec.plan = some p → OnePage s a q → takes (recording u p q (point x none))) ∧
      ∀ (x : Sample) (reply : Option (Axes (BitVec 32))), (s.arm a).cap.sample = some x →
        (reply = none → x.timer.len ≤ (s.now - x.timer.start).toNat) →
        let ends (w : State) : Prop := ∃ t, Sys2Proof.Machine.exec (match reply with
          | some d => .deflectionReply a { asked := x.time, d := d }
          | none => .deflectionTimeout a) s = .next t ∧ ShownFrom w t
        let d : Option Vec3 := reply.map (fun d => ⟨d.x.toInt, d.y.toInt, d.z.toInt⟩)
        let beyond : Prop := ∃ v, d = some v ∧ x.ctx.copy.overtravel * 1000 < max (max v.x.natAbs v.y.natAbs) v.z.natAbs
        let u := s.opened.modCap a (fun k => { k with sample := none })
        let handed (w : State) : State := (w.modCap a (fun k => { k with dropped := 0 })).modWr a (fun k =>
          { k with counts := { k.counts with dropped := min (k.counts.dropped + (w.arm a).cap.dropped) 65535 } })
        let finished (w : State) (o : PlanOutcome) (k : FaultCode) : Prop :=
          let rel (y : State) : State := if o = .withdrawn then y else y.released a
          (∀ p, (handed w).PlanAlone a p → ends (rel ((handed w).planEnded a p o k))) ∧
          ∀ p q, OnePage w a q → 1 ≤ q.count → ((handed w).pageClosed a q.page).PlanAlone a p →
            ends (rel (((handed w).pageClosed a q.page).planEnded a p o k))
        let judged (w : State) : Prop :=
          ((∀ r, s.doing a ≠ .awaitSample r) → (∀ o k, s.doing a ≠ .ending o k) → ends w) ∧
          (∀ r i len, s.doing a = .awaitSample r → (∀ q ∈ (w.arm a).wr.chain, 1 ≤ q.count) →
            let y := ((handed w).modCap a Capture.cleared).modWr a (fun k => { k with grant := none })
            Completing y a i len → ends (y.completed a i len)) ∧
          ∀ o k, s.doing a = .ending o k → finished w o k
        (beyond →
          (∀ g, s.doing a = .inFlight g → ends (u.stopping a (Stop.faulted .deflectionLimit))) ∧
          (∀ w r, s.hasPlan a = true → s.Unfaulted a → FaultEnds s a w r → ends ((w u).faultedAt a .deflectionLimit r)) ∧
          (s.doing a = .nothing → s.hasPlan a = true → (s.arm a).mot.state = .faulted ∨ (s.arm a).mot.state = .estop →
            ends (u.recorded a .deflectionLimit)) ∧
          ∀ o k, s.doing a = .ending o k →
            (o ≠ .withdrawn → finished u o (if k = .scaleFault then .scaleFault else .deflectionLimit)) ∧
            (o = .withdrawn → finished (u.recorded a .deflectionLimit) .withdrawn .none)) ∧
        (¬ beyond → f.maxPoints ≤ (s.arm a).cap.points → judged (dropping u)) ∧
        ∀ p q, ¬ beyond → (s.arm a).cap.points < f.maxPoints → (s.arm a).exec.plan = some p → OnePage s a q →
          judged (recording u p q (point x d))) ∧
  ∀ (s : State) (a : Arm), let pub := s.thermal.published; let part := s.maps.parts.get a; let e := (s.arm a).exec
    let uses (f : Group → Prop) : Prop := (∃ i, f ((pub.groups.scale.get a).get i)) ∨ (part.on = true ∧ f (pub.groups.part.get a))
    let shows (r : RecordData) (kind : RecordKind) (attempts : Nat) (time : Stamp) (ctx : Context) : Prop :=
      r.kind = kind ∧ r.attempts = attempts ∧ r.time = time ∧ r.item = e.index ∧
      (∀ k, e.rep = some k → r.iteration = k.iteration) ∧
      (∀ above c below k, e.rep = none → e.stack = above ++ c :: below → (∀ x ∈ above, x.rep = none) → c.rep = some k →
        r.iteration = k.iteration) ∧
      (e.rep = none → (∀ c ∈ e.stack, c.rep = none) → r.iteration = 0) ∧ r.probe = ctx.index ∧
      (∀ o, ctx.selected = some o → r.tilt = o.tilt ∧ r.swivel = o.swivel) ∧
      (∀ i, r.dtScale.get i = ((pub.groups.scale.get a).get i).value) ∧
      r.dtPart = (if part.on then (pub.groups.part.get a).value else -32768) ∧
      (r.flags.tempHeld = true ↔ uses (fun g => g.state = .held)) ∧ (r.flags.tempExpired = true ↔ uses (fun g => g.state = .expired)) ∧
      (r.flags.spread = true ↔ uses (fun g => g.spreadFlag = true)) ∧ r.flags.partUnstable = pub.partRate.get a ∧
      (r.flags.probeExpired = true ↔ ctx.copy.qualification ≠ .qualified) ∧ r.flags.partUncorr = !part.on
    (∀ x : PointIn, let r := pointRecord s a x; let c := chainIn s a x
      shows r x.kind x.attempts x.time x.ctx ∧ r.content = (chain c).1 ∧ r.flags.mapEdge = (chain c).2.1 ∧
      r.flags.saturated = (chain c).2.2 ∧ r.flags.noDeflection = x.noDeflection ∧ r.flags.offWindow = x.offWindow ∧
      c.counts = x.counts ∧ c.cref = (s.arm a).scale.cref ∧ c.axes = s.inst.axes.get a ∧ c.limits = s.inst.arms.get a ∧
      c.nodes = s.maps.nodes ∧ c.descs = s.maps.descs.get a ∧ c.part = part ∧ c.dtPart = (pub.groups.part.get a).value ∧
      (∀ i, c.dtScale.get i = ((pub.groups.scale.get a).get i).value) ∧ (∀ o, x.ctx.selected = some o → c.tip = o.offset) ∧
      c.deflection = x.deflection) ∧
    ∀ n, let r := missRecord s a n
      shows r .miss n s.now (s.arm a).cap.ctx ∧ r.flags.mapEdge = false ∧ r.flags.saturated = false ∧ r.flags.noDeflection = false ∧
      r.flags.offWindow = false

/-! ### Temperatures and coordinates (R136 to R164) -/

/-- The thermal line. A cycle falls due at a fixed period: with none in progress the first enabled channel is read, else an overrun is counted
and one cycle is pending (R138). A reply in time whose sum and status are good makes the channel FRESH with its value, its rate of change, and
its LOW, HIGH and RATE flags judged (R143 to R145); a flag that becomes set sets THERMAL_ALARM (R146); then the next enabled channel is read.
Without a reply in 5 ms the read is a miss (R136, R143). A low wire is awaited for 25 ms; then the release sequence is sent and counted, and
the request after it if the wire is high (R137). A reply that does not answer the read in progress is dropped. An element fault makes the
channel FAILED. The end of the last enabled channel's read is the cycle's end; a pending cycle then begins, also after the read kept from an
abandoned cycle (the model's reading, notes/assumptions/34.md), which goes no further (R136, R138 to R140, R143). That the 5 ms run from the
command that begins the read is the model's choice, notes/assumptions/73.md. -/
def Obligations.ThermalReads : Prop :=
  ∀ (s : State), s.Shaped →
    let asked (u : State) (h : Thermal) (k : Nat) (b : Bool) : State :=
      { u with
        thermal := { h with wire := .high, cycle := some { chan := k, phase := .reply { start := s.now, len := 5000 }, abandoned := b } }
        out := [.readRequest (s.chan k).address] }
    let next (i k : Nat) : Prop := i ≤ k ∧ (s.chan k).state ≠ .disabled ∧ ∀ n, i ≤ n → n < k → (s.chan n).state = .disabled
    (∀ d w, s.thermal.due = some d → d.len ≤ (s.now - d.start).toNat →
      let h := { s.thermal with due := some { start := d.start + BitVec.ofNat 48 d.len, len := s.inst.cyclePeriod * 1000 } }
      (s.thermal.cycle.isSome = true → ∃ t, Sys2Proof.Machine.exec (.thermalCycleDue w) s = .next t ∧
        ShownFrom { s.opened with thermal := { h with overruns := h.overruns + 1, pendingCycle := true } } t) ∧
      ∀ k, s.thermal.cycle = none → next 0 k →
        (∃ t, Sys2Proof.Machine.exec (.thermalCycleDue .high) s = .next t ∧ ShownFrom (asked s h k false) t) ∧
        ∀ x, ∃ t, Sys2Proof.Machine.exec (.thermalCycleDue (.low x)) s = .next t ∧
          ShownFrom { s.opened with thermal := { h with wire := .low x, cycle := some { chan := k, phase := .waitWire, abandoned := false } } } t) ∧
    (∀ i k d, s.thermal.cycle = some { chan := i, phase := .reply d, abandoned := false } → i < 32 → next (i + 1) k →
      let c := s.chan i
      let took (x : Chan) (rises : Bool) : State :=
        asked { s with cause := if rises then s.cause ||| causeWord .thermalAlarm else s.cause }
          { s.thermal with chans := s.thermal.chans.set i x } k false
      (∀ (value : BitVec 16) (check : BitVec 8), (s.now - d.start).toNat ≤ d.len → (value.toNat % 256 + value.toNat / 256 + check.toNat) % 256 = 0 →
        -20000 ≤ value.toInt → value.toInt ≤ 30000 →
        let v := value.toInt
        let reply : ModuleReply := { address := c.address, asked := d.start, value := value }
        let low := if v < c.alarmLow then true else if c.alarmLow + 100 ≤ v then false else c.low
        let high := if c.alarmHigh < v then true else if v ≤ c.alarmHigh - 100 then false else c.high
        (c.lastGood = none → ∃ t, Sys2Proof.Machine.exec (.thermalReply reply 0 check .high) s = .next t ∧
          ShownFrom (took { c with value := v, lastGood := some s.now, misses := 0, state := .fresh, low := low, high := high, rateFlag := false }
            (low && !c.low || high && !c.high)) t) ∧
        ∀ g, c.lastGood = some g → g ≠ s.now →
          let q := roundDiv ((v - c.value) * 60000000) (s.now - g).toNat
          let rate := if q < -32767 then -32767 else if 32767 < q then 32767 else q
          let fast := decide (c.rateLimit < rate.natAbs)
          ∃ t, Sys2Proof.Machine.exec (.thermalReply reply 0 check .high) s = .next t ∧
            ShownFrom (took { c with
              value := v, lastGood := some s.now, misses := 0, state := .fresh, low := low, high := high, rate := rate, rateFlag := fast }
              (low && !c.low || high && !c.high || fast && !c.rateFlag)) t) ∧
      (d.len ≤ (s.now - d.start).toNat → c.state = .fresh → c.misses < 65535 → ∃ t, Sys2Proof.Machine.exec (.thermalReadTimeout .high) s = .next t ∧
        ShownFrom (took (if s.inst.missLimit ≤ c.misses + 1 then
          { c with misses := c.misses + 1, state := .failed, low := false, high := false, rateFlag := false }
          else { c with misses := c.misses + 1, state := .aged }) false) t)) ∧
    (∀ i b x, s.thermal.cycle = some { chan := i, phase := .waitWire, abandoned := b } → s.thermal.wire = .low x →
      ((s.now - x).toNat ≤ 25000 → (∃ t, Sys2Proof.Machine.exec .dataWireHigh s = .next t ∧ ShownFrom (asked s s.thermal i b) t) ∧
        ∃ t, Sys2Proof.Machine.exec .lineStuck s = .next t ∧ ShownFrom s.opened t) ∧
      (25000 < (s.now - x).toNat → ∃ t, Sys2Proof.Machine.exec .lineStuck s = .next t ∧
        ShownFrom { s with
          thermal := { s.thermal with lineStuck := s.thermal.lineStuck + 1, cycle := some { chan := i, phase := .releasing, abandoned := b } }
          out := [.releaseSequence] } t)) ∧
    (∀ i b, s.thermal.cycle = some { chan := i, phase := .releasing, abandoned := b } →
      ∃ t, Sys2Proof.Machine.exec (.releaseSequenceEnd .high) s = .next t ∧ ShownFrom (asked s s.thermal i b) t) ∧
    (∀ (value : BitVec 16) (status check : BitVec 8), let o := judgeReply value status check
      let sound : Prop := (value.toNat % 256 + value.toNat / 256 + status.toNat + check.toNat) % 256 = 0
      (sound → status = 1 ∨ status = 2 → o = .element) ∧
      (sound → status = 0 → -20000 ≤ value.toInt → value.toInt ≤ 30000 → o = .good value.toInt) ∧
      (¬ sound ∨ 2 < status.toNat ∨ (status = 0 ∧ ¬ (-20000 ≤ value.toInt ∧ value.toInt ≤ 30000)) → o = .miss)) ∧
    (∀ i, (s.chan i).state = .fresh ∨ (s.chan i).state = .aged → takeRead i .element s = { s with thermal := { s.thermal with
      chans := s.thermal.chans.set i { s.chan i with state := .failed, low := false, high := false, rateFlag := false } } }) ∧
    (∀ i b d (r : ModuleReply) (status check : BitVec 8) (w : Wire), s.thermal.cycle = some { chan := i, phase := .reply d, abandoned := b } →
      r.address ≠ (s.chan i).address ∨ r.asked ≠ d.start ∨ d.len < (s.now - d.start).toNat →
      ∃ t, Sys2Proof.Machine.exec (.thermalReply r status check w) s = .next t ∧ ShownFrom s.opened t) ∧
    ∀ i b d (w : Wire) (o : ReadOutcome) (c : Instr) (h : Thermal),
      (h = s.thermal ∧ ∃ (r : ModuleReply) (status check : BitVec 8), c = .thermalReply r status check w ∧ o = judgeReply r.value status check ∧
        s.thermal.cycle = some { chan := i, phase := .reply d, abandoned := b } ∧ r.address = (s.chan i).address ∧ r.asked = d.start ∧
        (s.now - d.start).toNat ≤ d.len) ∨
      (h = s.thermal ∧ c = .thermalReadTimeout w ∧ o = .miss ∧ s.thermal.cycle = some { chan := i, phase := .reply d, abandoned := b } ∧
        d.len ≤ (s.now - d.start).toNat) ∨
      (h = { s.thermal with wire := w } ∧ c = .releaseSequenceEnd w ∧ o = .miss ∧ (∃ x, w = .low x) ∧
        s.thermal.cycle = some { chan := i, phase := .releasing, abandoned := b }) →
      let u := takeRead i o { s.opened with thermal := h }
      let first (k : Nat) : Prop := (u.chan k).state ≠ .disabled ∧ ∀ n, n < k → (u.chan n).state = .disabled
      let goes (v : State) : Prop :=
        (s.thermal.pendingCycle = false → ∃ t, Sys2Proof.Machine.exec c s = .next t ∧
          ShownFrom { v with thermal := { v.thermal with cycle := none } } t) ∧
        ∀ k, s.thermal.pendingCycle = true → first k → w = .high → ∃ t, Sys2Proof.Machine.exec c s = .next t ∧
          ShownFrom (asked v { v.thermal with pendingCycle := false } k false) t
      (b = true → goes u) ∧ (b = false → (∀ n, i < n → n < 32 → (s.chan n).state = .disabled) → goes (cycleEnd u)) ∧
      ∀ k x, b = false → i < k → (u.chan k).state ≠ .disabled → (∀ n, i < n → n < k → (u.chan n).state = .disabled) → w = .low x →
        ∃ t, Sys2Proof.Machine.exec c s = .next t ∧ ShownFrom { u with
          thermal := { u.thermal with wire := w, cycle := some { chan := k, phase := .waitWire, abandoned := false } } } t

/-- A cycle end sets each of the nine groups and publishes them. With no enabled channel of its role a group is NONE; with valid ones,
FRESH or AGED with a reading, it is LIVE with their mean, rounded, their largest difference as its spread, and SPREAD set exactly when the
spread exceeds its limit; with none valid, LIVE becomes HELD from this cycle end, and HELD becomes EXPIRED once the time since the hold
start exceeds the hold limit, the values kept (R148, R149). With AIR LIVE, each present QUALIFIED entry of the probe table whose
qualification temperature differs from it by more than the requalify band becomes EXPIRED, and PROBE_EXPIRED is set if one did (R96). -/
def Obligations.GroupsAtACycleEnd : Prop :=
  (∀ (s : State) (r : Role), r ≠ .spare →
    let all := s.thermal.chans.filter (fun c => c.enabled && decide (c.role = r))
    let valid := all.filter (fun c => decide ((c.state = .fresh ∨ c.state = .aged) ∧ c.lastGood ≠ none))
    let g := s.thermal.groups.of r
    let g' := (cycleEnd s).thermal.groups.of r
    (cycleEnd s).thermal.published.groups.of r = g' ∧
    (all = [] → g' = { state := .none, value := 0, spread := 0, spreadFlag := false, holdStart := none }) ∧
    (valid ≠ [] → g'.state = .live ∧ g'.holdStart = none ∧ Rounds (valid.map (fun c => c.value)).sum valid.length g'.value ∧
      (∀ c ∈ valid, ∀ d ∈ valid, c.value - d.value ≤ g'.spread) ∧ (∃ c ∈ valid, ∃ d ∈ valid, c.value - d.value = g'.spread) ∧
      (g'.spreadFlag = true ↔ s.inst.spreadLimit < g'.spread)) ∧
    (all ≠ [] → valid = [] → g.state = .live → g' = { g with state := .held, holdStart := some s.now }) ∧
    ∀ x, all ≠ [] → valid = [] → g.holdStart = some x →
      (s.inst.holdLimit * 1000000 < (s.now - x).toNat → g.state = .held ∨ g.state = .expired → g' = { g with state := .expired }) ∧
      ((s.now - x).toNat ≤ s.inst.holdLimit * 1000000 → g.state = .held → g' = g)) ∧
  ∀ s : State, let air := (cycleEnd s).thermal.groups.air
    let turns (e : Probe) : Prop := e.present = true ∧ e.qualification = .qualified ∧ s.inst.requalBand < (air.value - e.tq).natAbs
    (cycleEnd s).probes.length = s.probes.length ∧
    (air.state = .live → (∀ (k : Nat) (e : Probe), s.probes[k]? = some e →
        (turns e → (cycleEnd s).probes[k]? = some { e with qualification := .expired }) ∧
        (¬ turns e → (cycleEnd s).probes[k]? = some e)) ∧
      ((∃ e ∈ s.probes, turns e) → (cycleEnd s).cause = s.cause ||| causeWord .probeExpired) ∧
      ((∀ e ∈ s.probes, ¬ turns e) → (cycleEnd s).cause = s.cause)) ∧
    (air.state ≠ .live → (cycleEnd s).probes = s.probes ∧ (cycleEnd s).cause = s.cause)

/-- The value of a map at a scale position by the first of the four cases of R156: the first node below the map, the last above it, else
the node at or below the position and the rounded part of the way to the next; the first two alone are beyond an end, and an absent map
gives 0. A point's MAP_EDGE flag is set exactly when one of its arm's loaded maps is evaluated beyond an end. -/
def Obligations.MapsAreEvaluated : Prop :=
  (∀ (nodes : List Int) (s : Int), evalDesc nodes none s = (0, false)) ∧
  (∀ (nodes : List Int) (d : MapDesc) (s : Int), 1 ≤ d.count →
    let e (k : Nat) : Int := nodes.getD (d.base + k) 0
    let last : Int := d.s0 + ((d.count - 1 : Nat) : Int) * 2 ^ d.m
    (s < d.s0 → evalDesc nodes (some d) s = (e 0, true)) ∧
    (last < s → evalDesc nodes (some d) s = (e (d.count - 1), true)) ∧
    (s = last → evalDesc nodes (some d) s = (e (d.count - 1), false)) ∧
    ∀ (k : Nat) (f : Int), k + 1 < d.count → 0 ≤ f → f < 2 ^ d.m → s = d.s0 + (k : Int) * 2 ^ d.m + f →
      ∃ v : Int, evalDesc nodes (some d) s = (e k + v, false) ∧ Rounds ((e (k + 1) - e k) * f) (2 ^ d.m) v) ∧
  ∀ c : ChainIn, (chain c).2.1 = true ↔ ∃ i j d, (c.descs.get i).get j = some d ∧
    let s := (scalePositions c.axes c.counts c.cref).get i
    (s < d.s0 ∨ d.s0 + ((d.count - 1 : Nat) : Int) * 2 ^ d.m < s)

/-- The chain of a point: the scale positions, the thermal term of each axis, the maps and the three squareness terms of each direction, tip
offset and deflection, the part correction about the datum where it is on, every term rounded on its own; a component beyond 549,755,813,887
is held there with its sign, and SATURATED is set exactly when one was (R157 to R162). A point's chain takes the arm's reference counts, its
SCALE groups and its PART group of the published set, 0 for a group in state NONE (R148, R149), and its settings; the record holds the result,
with PART_UNCORR set where the part correction is off. -/
def Obligations.ChainGivesTheCoordinate : Prop :=
  ∀ c : ChainIn,
    let s : Vec3 := Axes.of (fun i =>
      ((c.counts.get i).toInt - (c.cref.get i).toInt) * ((c.axes.get i).u : Int) + (c.axes.get i).home)
    let maps (j : Axis) : Int := (evalDesc c.nodes ((c.descs.get .X).get j) s.x).1 + (evalDesc c.nodes ((c.descs.get .Y).get j) s.y).1 +
      (evalDesc c.nodes ((c.descs.get .Z).get j) s.z).1
    ∃ (t w q : Vec3) (xy xz yz : Int),
      (∀ i, Rounds (s.get i * ((c.axes.get i).alpha : Int) * c.dtScale.get i) 100000000000 (t.get i)) ∧
      Rounds (s.y * c.limits.qXY) 1000000000 xy ∧ Rounds (s.z * c.limits.qXZ) 1000000000 xz ∧
      Rounds (s.z * c.limits.qYZ) 1000000000 yz ∧
      let g : Vec3 := ⟨maps .X + xy + xz, maps .Y + yz, maps .Z⟩
      let p : Vec3 := Axes.of (fun j => s.get j + t.get j - g.get j + c.tip.get j + c.deflection.get j)
      (∀ j, Rounds ((p.get j - c.part.datum.get j) * (c.part.alpha : Int) * c.dtPart) 100000000000 (w.get j)) ∧
      (∀ j, q.get j = if c.part.on then p.get j - w.get j else p.get j) ∧
      (∀ j, (chain c).1.get j =
        if (q.get j).natAbs ≤ 549755813887 then q.get j else if 0 < q.get j then 549755813887 else -549755813887) ∧
      ((chain c).2.2 = true ↔ ∃ j, 549755813887 < (q.get j).natAbs) ∧
      ∀ (v : State) (a : Arm) (x : PointIn), c = chainIn v a x →
        let pub := v.thermal.published.groups; let r := pointRecord v a x
        c.counts = x.counts ∧ c.cref = (v.arm a).scale.cref ∧ (∀ i, c.dtScale.get i = ((pub.scale.get a).get i).value) ∧
        c.dtPart = (pub.part.get a).value ∧ c.part = v.maps.parts.get a ∧ (∀ o, x.ctx.selected = some o → c.tip = o.offset) ∧
        c.deflection = x.deflection ∧ r.content = (chain c).1 ∧ r.flags.saturated = (chain c).2.2 ∧ r.flags.partUncorr = !c.part.on

end
end

