-- ==== Sys2Proof/Laws/Memory.lean ====
section
/-! SUPPORT. The laws of the exchange memory: a read after a write, the bytes a write leaves alone, the canonical form, which every
write keeps and in which equal memories are equal lists, and the little-endian fields. -/

namespace Sys2Proof.Machine

/-! ### Reads -/

theorem readByte_of_unlisted {m : Mem} {x : Nat} (h : ∀ c ∈ m, c.1 ≠ x) : readByte m x = unlistedByte := by
  induction m with
  | nil => rfl
  | cons c t ih =>
    obtain ⟨k, v⟩ := c
    have hk : k ≠ x := h (k, v) (by simp)
    simp only [readByte, if_neg hk]
    exact ih (fun c hc => h c (by simp [hc]))

theorem readByte_append_right {l r : Mem} {x : Nat} (h : ∀ c ∈ l, c.1 ≠ x) : readByte (l ++ r) x = readByte r x := by
  induction l with
  | nil => rfl
  | cons c t ih =>
    obtain ⟨k, v⟩ := c
    have hk : k ≠ x := h (k, v) (by simp)
    simp only [List.cons_append, readByte, if_neg hk]
    exact ih (fun c hc => h c (by simp [hc]))

theorem readByte_append_left {l r : Mem} {x : Nat} (h : ∀ c ∈ r, c.1 ≠ x) : readByte (l ++ r) x = readByte l x := by
  induction l with
  | nil => exact readByte_of_unlisted h
  | cons c t ih =>
    obtain ⟨k, v⟩ := c
    simp only [List.cons_append, readByte, ih]

theorem readByte_filter {m : Mem} {x : Nat} {p : Nat → Bool} (h : p x = true) : readByte (m.filter (fun c => p c.1)) x = readByte m x := by
  induction m with
  | nil => rfl
  | cons c t ih =>
    obtain ⟨k, v⟩ := c
    by_cases hk : k = x
    · subst hk; simp [h, readByte]
    · cases hp : p k <;> simp [hp, readByte, hk, ih]

/-! ### Listed cells -/

theorem listedCells_mem {bs : List Byte} {a : Nat} {c : Host.Cell} (h : c ∈ listedCells a bs) :
    a ≤ c.1 ∧ c.1 < a + bs.length ∧ c.2 ≠ unlistedByte := by
  induction bs generalizing a with
  | nil => simp [listedCells] at h
  | cons b t ih =>
    rw [listedCells] at h
    split at h
    · have := ih h; simp only [List.length_cons]; exact ⟨by omega, by omega, this.2.2⟩
    · rename_i hb
      rcases List.mem_cons.1 h with rfl | h
      · simpa using hb
      · have := ih h; simp only [List.length_cons]; exact ⟨by omega, by omega, this.2.2⟩

theorem readByte_listedCells {bs : List Byte} {a i : Nat} (h : i < bs.length) : readByte (listedCells a bs) (a + i) = bs[i] := by
  induction bs generalizing a i with
  | nil => simp at h
  | cons b t ih =>
    have skip : ∀ c ∈ listedCells (a + 1) t, c.1 ≠ a := fun c hc => by have := listedCells_mem hc; omega
    cases i with
    | zero =>
      by_cases hb : b = unlistedByte
      · simp [listedCells, hb, readByte_of_unlisted skip]
      · simp [listedCells, hb, readByte]
    | succ i =>
      have e : a + (i + 1) = a + 1 + i := by omega
      have hi : i < t.length := by simpa using h
      have hne : a ≠ a + 1 + i := by omega
      rw [e]
      by_cases hb : b = unlistedByte
      · simp [listedCells, hb, ih hi]
      · simp [listedCells, hb, readByte, hne, ih hi]

theorem inMemory_length (a : Nat) (bs : List Byte) : (inMemory a bs).length ≤ bs.length := by
  simp [inMemory]

/-! ### Read after write -/

/-- A write leaves every byte outside its own alone. -/
theorem readByte_writeBytes_outside {m : Mem} {a : Nat} {bs : List Byte} {x : Nat} (h : x < a ∨ a + bs.length ≤ x) :
    readByte (writeBytes m a bs) x = readByte m x := by
  have hl : ∀ c ∈ listedCells a (inMemory a bs), c.1 ≠ x := fun c hc => by
    have := listedCells_mem hc; have := inMemory_length a bs; omega
  rcases h with h | h
  · have hr : ∀ c ∈ listedCells a (inMemory a bs) ++ m.filter (fun c => a + bs.length ≤ c.1), c.1 ≠ x := by
      intro c hc
      rcases List.mem_append.1 hc with hc | hc
      · exact hl c hc
      · have := (List.mem_filter.1 hc).2; simp at this; omega
    rw [writeBytes, readByte_append_left hr]
    exact readByte_filter (p := fun k => decide (k < a)) (by simpa using h)
  · have h1 : ∀ c ∈ m.filter (fun c => c.1 < a), c.1 ≠ x := fun c hc => by
      have := (List.mem_filter.1 hc).2; simp at this; omega
    rw [writeBytes, readByte_append_right h1, readByte_append_right hl]
    exact readByte_filter (p := fun k => decide (a + bs.length ≤ k)) (by simpa using h)

/-- A read after a write of the same byte gives the byte written. -/
theorem readByte_writeBytes_inside {m : Mem} {a i : Nat} {bs : List Byte} (h : i < bs.length) (hs : a + i < memSize) :
    readByte (writeBytes m a bs) (a + i) = bs[i] := by
  have hi : i < (inMemory a bs).length := by simp [inMemory]; omega
  have h1 : ∀ c ∈ m.filter (fun c => c.1 < a), c.1 ≠ a + i := fun c hc => by
    have := (List.mem_filter.1 hc).2; simp at this; omega
  have h2 : ∀ c ∈ m.filter (fun c => a + bs.length ≤ c.1), c.1 ≠ a + i := fun c hc => by
    have := (List.mem_filter.1 hc).2; simp at this; omega
  rw [writeBytes, readByte_append_right h1, readByte_append_left h2, readByte_listedCells hi]
  simp [inMemory]

theorem readBytes_length (m : Mem) (a n : Nat) : (readBytes m a n).length = n := by
  induction n generalizing a with
  | zero => rfl
  | succ n ih => simp [readBytes, ih]

theorem readBytes_congr {m m' : Mem} {a n : Nat} (h : ∀ x, a ≤ x → x < a + n → readByte m x = readByte m' x) :
    readBytes m a n = readBytes m' a n := by
  induction n generalizing a with
  | zero => rfl
  | succ n ih => rw [readBytes, readBytes, h a (by omega) (by omega), ih (fun x h1 h2 => h x (by omega) (by omega))]

/-- A field outside a write reads as before. -/
theorem readNat_writeBytes_outside {m : Mem} {a : Nat} {bs : List Byte} {x n : Nat} (h : x + n ≤ a ∨ a + bs.length ≤ x) :
    readNat (writeBytes m a bs) x n = readNat m x n := by
  rw [readNat, readNat, readBytes_congr]
  intro y h1 h2
  exact readByte_writeBytes_outside (by omega)

theorem getElem_readBytes {m : Mem} {a n i : Nat} (h : i < (readBytes m a n).length) : (readBytes m a n)[i] = readByte m (a + i) := by
  induction n generalizing a i with
  | zero => simp [readBytes] at h
  | succ n ih =>
    cases i with
    | zero => simp [readBytes]
    | succ i =>
      have hi : i < (readBytes m (a + 1) n).length := by simpa [readBytes] using h
      simp only [readBytes, List.getElem_cons_succ, ih hi]
      congr 1; omega

/-- The bytes just written are read back. -/
theorem readBytes_writeBytes {m : Mem} {a : Nat} {bs : List Byte} (hs : a + bs.length ≤ memSize) :
    readBytes (writeBytes m a bs) a bs.length = bs := by
  apply List.ext_getElem (readBytes_length _ _ _)
  intro i h1 h2
  rw [getElem_readBytes, readByte_writeBytes_inside h2 (by omega)]

/-! ### The canonical form -/

/-- The canonical form in one sentence: offsets rise strictly, lie in the memory, and no byte is the unlisted one. -/
theorem cellsWf_iff {lo : Option Nat} {m : Mem} :
    cellsWf lo m = true ↔
      (∀ l, lo = some l → ∀ c ∈ m, l < c.1) ∧ m.Pairwise (fun c d => c.1 < d.1) ∧ ∀ c ∈ m, c.1 < memSize ∧ c.2 ≠ unlistedByte := by
  induction m generalizing lo with
  | nil => simp [cellsWf]
  | cons c t ih =>
    obtain ⟨k, v⟩ := c
    cases lo with
    | none =>
      simp only [cellsWf, Bool.and_eq_true, decide_eq_true_eq, ih, List.pairwise_cons, List.mem_cons, forall_eq_or_imp]
      constructor
      · rintro ⟨-, h1, h2, h3, h4, h5⟩
        exact ⟨by simp, ⟨fun c hc => h3 k rfl c hc, h4⟩, ⟨h1, h2⟩, h5⟩
      · rintro ⟨-, ⟨h1, h2⟩, ⟨h3, h4⟩, h5⟩
        exact ⟨trivial, h3, h4, fun l hl c hc => by cases hl; exact h1 c hc, h2, h5⟩
    | some l =>
      simp only [cellsWf, Bool.and_eq_true, decide_eq_true_eq, ih, List.pairwise_cons, List.mem_cons, forall_eq_or_imp]
      constructor
      · rintro ⟨h0, h1, h2, h3, h4, h5⟩
        exact ⟨fun l' hl => by cases hl; exact ⟨h0, fun c hc => lt_trans h0 (h3 k rfl c hc)⟩, ⟨fun c hc => h3 k rfl c hc, h4⟩, ⟨h1, h2⟩, h5⟩
      · rintro ⟨h0, ⟨h1, h2⟩, ⟨h3, h4⟩, h5⟩
        exact ⟨(h0 l rfl).1, h3, h4, fun l' hl c hc => by cases hl; exact h1 c hc, h2, h5⟩

theorem memWf_iff {m : Mem} :
    memWf m = true ↔ m.Pairwise (fun c d => c.1 < d.1) ∧ ∀ c ∈ m, c.1 < memSize ∧ c.2 ≠ unlistedByte := by
  rw [memWf, cellsWf_iff]; simp

theorem listedCells_pairwise (a : Nat) (bs : List Byte) : (listedCells a bs).Pairwise (fun c d => c.1 < d.1) := by
  induction bs generalizing a with
  | nil => simp [listedCells]
  | cons b t ih =>
    rw [listedCells]
    split
    · exact ih _
    · refine List.pairwise_cons.2 ⟨fun c hc => ?_, ih _⟩
      have := listedCells_mem hc; omega

/-- Every write keeps the canonical form. -/
theorem writeBytes_wf {m : Mem} (h : memWf m = true) (a : Nat) (bs : List Byte) : memWf (writeBytes m a bs) = true := by
  rw [memWf_iff] at h ⊢
  obtain ⟨h1, h2⟩ := h
  have hl := fun c (hc : c ∈ listedCells a (inMemory a bs)) => listedCells_mem hc
  have hn : (inMemory a bs).length ≤ bs.length := inMemory_length a bs
  have hm : a + (inMemory a bs).length ≤ max a memSize := by simp [inMemory]; omega
  constructor
  · refine List.pairwise_append.2 ⟨h1.filter _, List.pairwise_append.2 ⟨listedCells_pairwise _ _, h1.filter _, ?_⟩, ?_⟩
    · intro c hc d hd
      have := hl c hc; have := (List.mem_filter.1 hd).2; simp at this; omega
    · intro c hc d hd
      have hc := (List.mem_filter.1 hc).2; simp at hc
      rcases List.mem_append.1 hd with hd | hd
      · have := hl d hd; omega
      · have := (List.mem_filter.1 hd).2; simp at this; omega
  · intro c hc
    rcases List.mem_append.1 hc with hc | hc
    · exact h2 c (List.mem_filter.1 hc).1
    · rcases List.mem_append.1 hc with hc | hc
      · have := hl c hc; exact ⟨by omega, this.2.2⟩
      · exact h2 c (List.mem_filter.1 hc).1

theorem writeTag_wf {m : Mem} (h : memWf m = true) (base tag : Nat) : memWf (writeTag m base tag) = true := writeBytes_wf h _ _

/-- Canonical memories that read alike are one list. -/
theorem mem_ext {m m' : Mem} (h : memWf m = true) (h' : memWf m' = true) (e : ∀ x, readByte m x = readByte m' x) : m = m' := by
  rw [memWf_iff] at h h'
  induction m generalizing m' with
  | nil =>
    cases m' with
    | nil => rfl
    | cons c t =>
      obtain ⟨k, v⟩ := c
      have := e k
      simp [readByte] at this
      exact absurd this.symm (h'.2 (k, v) (by simp)).2
  | cons c t ih =>
    obtain ⟨k, v⟩ := c
    cases m' with
    | nil =>
      have := e k
      simp [readByte] at this
      exact absurd this (h.2 (k, v) (by simp)).2
    | cons c' t' =>
      obtain ⟨k', v'⟩ := c'
      have p := List.pairwise_cons.1 h.1
      have p' := List.pairwise_cons.1 h'.1
      have hk : k = k' := by
        rcases Nat.lt_trichotomy k k' with hlt | heq | hgt
        · exfalso
          have h0 : ∀ c ∈ (k', v') :: t', c.1 ≠ k := by
            intro c hc
            rcases List.mem_cons.1 hc with rfl | hc
            · simp; omega
            · have := p'.1 c hc; simp at this; omega
          have := e k
          rw [readByte_of_unlisted h0] at this
          simp [readByte] at this
          exact (h.2 (k, v) (by simp)).2 this
        · exact heq
        · exfalso
          have h0 : ∀ c ∈ (k, v) :: t, c.1 ≠ k' := by
            intro c hc
            rcases List.mem_cons.1 hc with rfl | hc
            · simp; omega
            · have := p.1 c hc; simp at this; omega
          have := e k'
          rw [readByte_of_unlisted h0] at this
          simp [readByte] at this
          exact (h'.2 (k', v') (by simp)).2 this.symm
      subst hk
      have hv : v = v' := by simpa [readByte] using e k
      subst hv
      refine congrArg _ (ih (m' := t') ⟨p.2, fun c hc => h.2 c (by simp [hc])⟩ ⟨p'.2, fun c hc => h'.2 c (by simp [hc])⟩ (fun x => ?_))
      by_cases hx : k = x
      · subst hx
        rw [readByte_of_unlisted (fun c hc => by have := p.1 c hc; simp at this; omega),
          readByte_of_unlisted (fun c hc => by have := p'.1 c hc; simp at this; omega)]
      · have := e x
        simpa [readByte, hx] using this

/-! ### Little-endian fields -/

@[simp] theorem leBytes_length (w n : Nat) : (leBytes w n).length = w := by
  induction w generalizing n with
  | zero => rfl
  | succ w ih => simp [leBytes, ih]

@[simp] theorem leSigned_length (w : Nat) (v : Int) : (leSigned w v).length = w := leBytes_length _ _

@[simp] theorem zeros_length (n : Nat) : (zeros n).length = n := by simp [zeros]

/-- The little-endian bytes of a number give the number back, modulo the width. -/
theorem leNat_leBytes (w n : Nat) : leNat (leBytes w n) = n % 256 ^ w := by
  induction w generalizing n with
  | zero => simp [leBytes, leNat, Nat.mod_one]
  | succ w ih =>
    have hm : n % 256 ^ (w + 1) = n % 256 + 256 * (n / 256 % 256 ^ w) := by rw [pow_succ']; exact Nat.mod_mul
    have hb : (BitVec.ofNat 8 n).toNat = n % 256 := by simp
    simp only [leBytes, leNat, ih, hb, hm]

/-- A field reads as it was written. -/
theorem readNat_writeBytes {m : Mem} {a w n : Nat} (hs : a + w ≤ memSize) :
    readNat (writeBytes m a (leBytes w n)) a w = n % 256 ^ w := by
  have h := readBytes_writeBytes (m := m) (a := a) (bs := leBytes w n) (by simpa using hs)
  rw [leBytes_length] at h
  rw [readNat, h, leNat_leBytes]

/-- A tag reads as it was written. -/
theorem readTag_writeTag {m : Mem} {base tag : Nat} (hs : base + 4 ≤ memSize) (ht : tag < 2 ^ 32) :
    readTag (writeTag m base tag) base = tag := by
  rw [readTag, writeTag, readNat_writeBytes hs]
  exact Nat.mod_eq_of_lt (by simpa using ht)

end Sys2Proof.Machine
end

