-- ==== Sys2Proof/Laws/State.lean ====
section
/-! SUPPORT. One lemma per field per update of the state, each true by `rfl`, and the records of one arm after an update of them. -/

namespace Sys2Proof.Machine

/-! ### Fields that an update leaves alone -/

@[simp] theorem State.setArm_device (s : State) (a : Arm) (r : ArmRec) : (s.setArm a r).device = s.device := rfl
@[simp] theorem State.setArm_startResult (s : State) (a : Arm) (r : ArmRec) : (s.setArm a r).startResult = s.startResult := rfl
@[simp] theorem State.setArm_resetting (s : State) (a : Arm) (r : ArmRec) : (s.setArm a r).resetting = s.resetting := rfl
@[simp] theorem State.setArm_cause (s : State) (a : Arm) (r : ArmRec) : (s.setArm a r).cause = s.cause := rfl
@[simp] theorem State.setArm_mask (s : State) (a : Arm) (r : ArmRec) : (s.setArm a r).mask = s.mask := rfl
@[simp] theorem State.setArm_areaCode (s : State) (a : Arm) (r : ArmRec) : (s.setArm a r).areaCode = s.areaCode := rfl
@[simp] theorem State.setArm_areaOffset (s : State) (a : Arm) (r : ArmRec) : (s.setArm a r).areaOffset = s.areaOffset := rfl
@[simp] theorem State.setArm_ignoredCmds (s : State) (a : Arm) (r : ArmRec) : (s.setArm a r).ignoredCmds = s.ignoredCmds := rfl
@[simp] theorem State.setArm_estop (s : State) (a : Arm) (r : ArmRec) : (s.setArm a r).estop = s.estop := rfl
@[simp] theorem State.setArm_now (s : State) (a : Arm) (r : ArmRec) : (s.setArm a r).now = s.now := rfl
@[simp] theorem State.setArm_mem (s : State) (a : Arm) (r : ArmRec) : (s.setArm a r).mem = s.mem := rfl
@[simp] theorem State.setArm_sections (s : State) (a : Arm) (r : ArmRec) : (s.setArm a r).sections = s.sections := rfl
@[simp] theorem State.setArm_reports (s : State) (a : Arm) (r : ArmRec) : (s.setArm a r).reports = s.reports := rfl
@[simp] theorem State.setArm_scanning (s : State) (a : Arm) (r : ArmRec) : (s.setArm a r).scanning = s.scanning := rfl
@[simp] theorem State.setArm_scanPending (s : State) (a : Arm) (r : ArmRec) : (s.setArm a r).scanPending = s.scanPending := rfl
@[simp] theorem State.setArm_rescan (s : State) (a : Arm) (r : ArmRec) : (s.setArm a r).rescan = s.rescan := rfl
@[simp] theorem State.setArm_view (s : State) (a : Arm) (r : ArmRec) : (s.setArm a r).view = s.view := rfl
@[simp] theorem State.setArm_inst (s : State) (a : Arm) (r : ArmRec) : (s.setArm a r).inst = s.inst := rfl
@[simp] theorem State.setArm_zones (s : State) (a : Arm) (r : ArmRec) : (s.setArm a r).zones = s.zones := rfl
@[simp] theorem State.setArm_zoneTie (s : State) (a : Arm) (r : ArmRec) : (s.setArm a r).zoneTie = s.zoneTie := rfl
@[simp] theorem State.setArm_rack (s : State) (a : Arm) (r : ArmRec) : (s.setArm a r).rack = s.rack := rfl
@[simp] theorem State.setArm_probes (s : State) (a : Arm) (r : ArmRec) : (s.setArm a r).probes = s.probes := rfl
@[simp] theorem State.setArm_thermal (s : State) (a : Arm) (r : ArmRec) : (s.setArm a r).thermal = s.thermal := rfl
@[simp] theorem State.setArm_maps (s : State) (a : Arm) (r : ArmRec) : (s.setArm a r).maps = s.maps := rfl
@[simp] theorem State.setArm_draws (s : State) (a : Arm) (r : ArmRec) : (s.setArm a r).draws = s.draws := rfl
@[simp] theorem State.setArm_out (s : State) (a : Arm) (r : ArmRec) : (s.setArm a r).out = s.out := rfl
@[simp] theorem State.setArm_pending (s : State) (a : Arm) (r : ArmRec) : (s.setArm a r).pending = s.pending := rfl

@[simp] theorem State.modMot_device (s : State) (a : Arm) (f : Motion → Motion) : (s.modMot a f).device = s.device := rfl
@[simp] theorem State.modMot_startResult (s : State) (a : Arm) (f : Motion → Motion) : (s.modMot a f).startResult = s.startResult := rfl
@[simp] theorem State.modMot_resetting (s : State) (a : Arm) (f : Motion → Motion) : (s.modMot a f).resetting = s.resetting := rfl
@[simp] theorem State.modMot_cause (s : State) (a : Arm) (f : Motion → Motion) : (s.modMot a f).cause = s.cause := rfl
@[simp] theorem State.modMot_mask (s : State) (a : Arm) (f : Motion → Motion) : (s.modMot a f).mask = s.mask := rfl
@[simp] theorem State.modMot_areaCode (s : State) (a : Arm) (f : Motion → Motion) : (s.modMot a f).areaCode = s.areaCode := rfl
@[simp] theorem State.modMot_areaOffset (s : State) (a : Arm) (f : Motion → Motion) : (s.modMot a f).areaOffset = s.areaOffset := rfl
@[simp] theorem State.modMot_ignoredCmds (s : State) (a : Arm) (f : Motion → Motion) : (s.modMot a f).ignoredCmds = s.ignoredCmds := rfl
@[simp] theorem State.modMot_estop (s : State) (a : Arm) (f : Motion → Motion) : (s.modMot a f).estop = s.estop := rfl
@[simp] theorem State.modMot_now (s : State) (a : Arm) (f : Motion → Motion) : (s.modMot a f).now = s.now := rfl
@[simp] theorem State.modMot_mem (s : State) (a : Arm) (f : Motion → Motion) : (s.modMot a f).mem = s.mem := rfl
@[simp] theorem State.modMot_sections (s : State) (a : Arm) (f : Motion → Motion) : (s.modMot a f).sections = s.sections := rfl
@[simp] theorem State.modMot_reports (s : State) (a : Arm) (f : Motion → Motion) : (s.modMot a f).reports = s.reports := rfl
@[simp] theorem State.modMot_scanning (s : State) (a : Arm) (f : Motion → Motion) : (s.modMot a f).scanning = s.scanning := rfl
@[simp] theorem State.modMot_scanPending (s : State) (a : Arm) (f : Motion → Motion) : (s.modMot a f).scanPending = s.scanPending := rfl
@[simp] theorem State.modMot_rescan (s : State) (a : Arm) (f : Motion → Motion) : (s.modMot a f).rescan = s.rescan := rfl
@[simp] theorem State.modMot_view (s : State) (a : Arm) (f : Motion → Motion) : (s.modMot a f).view = s.view := rfl
@[simp] theorem State.modMot_inst (s : State) (a : Arm) (f : Motion → Motion) : (s.modMot a f).inst = s.inst := rfl
@[simp] theorem State.modMot_zones (s : State) (a : Arm) (f : Motion → Motion) : (s.modMot a f).zones = s.zones := rfl
@[simp] theorem State.modMot_zoneTie (s : State) (a : Arm) (f : Motion → Motion) : (s.modMot a f).zoneTie = s.zoneTie := rfl
@[simp] theorem State.modMot_rack (s : State) (a : Arm) (f : Motion → Motion) : (s.modMot a f).rack = s.rack := rfl
@[simp] theorem State.modMot_probes (s : State) (a : Arm) (f : Motion → Motion) : (s.modMot a f).probes = s.probes := rfl
@[simp] theorem State.modMot_thermal (s : State) (a : Arm) (f : Motion → Motion) : (s.modMot a f).thermal = s.thermal := rfl
@[simp] theorem State.modMot_maps (s : State) (a : Arm) (f : Motion → Motion) : (s.modMot a f).maps = s.maps := rfl
@[simp] theorem State.modMot_draws (s : State) (a : Arm) (f : Motion → Motion) : (s.modMot a f).draws = s.draws := rfl
@[simp] theorem State.modMot_out (s : State) (a : Arm) (f : Motion → Motion) : (s.modMot a f).out = s.out := rfl
@[simp] theorem State.modMot_pending (s : State) (a : Arm) (f : Motion → Motion) : (s.modMot a f).pending = s.pending := rfl

@[simp] theorem State.modExec_device (s : State) (a : Arm) (f : Executor → Executor) : (s.modExec a f).device = s.device := rfl
@[simp] theorem State.modExec_startResult (s : State) (a : Arm) (f : Executor → Executor) : (s.modExec a f).startResult = s.startResult := rfl
@[simp] theorem State.modExec_resetting (s : State) (a : Arm) (f : Executor → Executor) : (s.modExec a f).resetting = s.resetting := rfl
@[simp] theorem State.modExec_cause (s : State) (a : Arm) (f : Executor → Executor) : (s.modExec a f).cause = s.cause := rfl
@[simp] theorem State.modExec_mask (s : State) (a : Arm) (f : Executor → Executor) : (s.modExec a f).mask = s.mask := rfl
@[simp] theorem State.modExec_areaCode (s : State) (a : Arm) (f : Executor → Executor) : (s.modExec a f).areaCode = s.areaCode := rfl
@[simp] theorem State.modExec_areaOffset (s : State) (a : Arm) (f : Executor → Executor) : (s.modExec a f).areaOffset = s.areaOffset := rfl
@[simp] theorem State.modExec_ignoredCmds (s : State) (a : Arm) (f : Executor → Executor) : (s.modExec a f).ignoredCmds = s.ignoredCmds := rfl
@[simp] theorem State.modExec_estop (s : State) (a : Arm) (f : Executor → Executor) : (s.modExec a f).estop = s.estop := rfl
@[simp] theorem State.modExec_now (s : State) (a : Arm) (f : Executor → Executor) : (s.modExec a f).now = s.now := rfl
@[simp] theorem State.modExec_mem (s : State) (a : Arm) (f : Executor → Executor) : (s.modExec a f).mem = s.mem := rfl
@[simp] theorem State.modExec_sections (s : State) (a : Arm) (f : Executor → Executor) : (s.modExec a f).sections = s.sections := rfl
@[simp] theorem State.modExec_reports (s : State) (a : Arm) (f : Executor → Executor) : (s.modExec a f).reports = s.reports := rfl
@[simp] theorem State.modExec_scanning (s : State) (a : Arm) (f : Executor → Executor) : (s.modExec a f).scanning = s.scanning := rfl
@[simp] theorem State.modExec_scanPending (s : State) (a : Arm) (f : Executor → Executor) : (s.modExec a f).scanPending = s.scanPending := rfl
@[simp] theorem State.modExec_rescan (s : State) (a : Arm) (f : Executor → Executor) : (s.modExec a f).rescan = s.rescan := rfl
@[simp] theorem State.modExec_view (s : State) (a : Arm) (f : Executor → Executor) : (s.modExec a f).view = s.view := rfl
@[simp] theorem State.modExec_inst (s : State) (a : Arm) (f : Executor → Executor) : (s.modExec a f).inst = s.inst := rfl
@[simp] theorem State.modExec_zones (s : State) (a : Arm) (f : Executor → Executor) : (s.modExec a f).zones = s.zones := rfl
@[simp] theorem State.modExec_zoneTie (s : State) (a : Arm) (f : Executor → Executor) : (s.modExec a f).zoneTie = s.zoneTie := rfl
@[simp] theorem State.modExec_rack (s : State) (a : Arm) (f : Executor → Executor) : (s.modExec a f).rack = s.rack := rfl
@[simp] theorem State.modExec_probes (s : State) (a : Arm) (f : Executor → Executor) : (s.modExec a f).probes = s.probes := rfl
@[simp] theorem State.modExec_thermal (s : State) (a : Arm) (f : Executor → Executor) : (s.modExec a f).thermal = s.thermal := rfl
@[simp] theorem State.modExec_maps (s : State) (a : Arm) (f : Executor → Executor) : (s.modExec a f).maps = s.maps := rfl
@[simp] theorem State.modExec_draws (s : State) (a : Arm) (f : Executor → Executor) : (s.modExec a f).draws = s.draws := rfl
@[simp] theorem State.modExec_out (s : State) (a : Arm) (f : Executor → Executor) : (s.modExec a f).out = s.out := rfl
@[simp] theorem State.modExec_pending (s : State) (a : Arm) (f : Executor → Executor) : (s.modExec a f).pending = s.pending := rfl

@[simp] theorem State.modCap_device (s : State) (a : Arm) (f : Capture → Capture) : (s.modCap a f).device = s.device := rfl
@[simp] theorem State.modCap_startResult (s : State) (a : Arm) (f : Capture → Capture) : (s.modCap a f).startResult = s.startResult := rfl
@[simp] theorem State.modCap_resetting (s : State) (a : Arm) (f : Capture → Capture) : (s.modCap a f).resetting = s.resetting := rfl
@[simp] theorem State.modCap_cause (s : State) (a : Arm) (f : Capture → Capture) : (s.modCap a f).cause = s.cause := rfl
@[simp] theorem State.modCap_mask (s : State) (a : Arm) (f : Capture → Capture) : (s.modCap a f).mask = s.mask := rfl
@[simp] theorem State.modCap_areaCode (s : State) (a : Arm) (f : Capture → Capture) : (s.modCap a f).areaCode = s.areaCode := rfl
@[simp] theorem State.modCap_areaOffset (s : State) (a : Arm) (f : Capture → Capture) : (s.modCap a f).areaOffset = s.areaOffset := rfl
@[simp] theorem State.modCap_ignoredCmds (s : State) (a : Arm) (f : Capture → Capture) : (s.modCap a f).ignoredCmds = s.ignoredCmds := rfl
@[simp] theorem State.modCap_estop (s : State) (a : Arm) (f : Capture → Capture) : (s.modCap a f).estop = s.estop := rfl
@[simp] theorem State.modCap_now (s : State) (a : Arm) (f : Capture → Capture) : (s.modCap a f).now = s.now := rfl
@[simp] theorem State.modCap_mem (s : State) (a : Arm) (f : Capture → Capture) : (s.modCap a f).mem = s.mem := rfl
@[simp] theorem State.modCap_sections (s : State) (a : Arm) (f : Capture → Capture) : (s.modCap a f).sections = s.sections := rfl
@[simp] theorem State.modCap_reports (s : State) (a : Arm) (f : Capture → Capture) : (s.modCap a f).reports = s.reports := rfl
@[simp] theorem State.modCap_scanning (s : State) (a : Arm) (f : Capture → Capture) : (s.modCap a f).scanning = s.scanning := rfl
@[simp] theorem State.modCap_scanPending (s : State) (a : Arm) (f : Capture → Capture) : (s.modCap a f).scanPending = s.scanPending := rfl
@[simp] theorem State.modCap_rescan (s : State) (a : Arm) (f : Capture → Capture) : (s.modCap a f).rescan = s.rescan := rfl
@[simp] theorem State.modCap_view (s : State) (a : Arm) (f : Capture → Capture) : (s.modCap a f).view = s.view := rfl
@[simp] theorem State.modCap_inst (s : State) (a : Arm) (f : Capture → Capture) : (s.modCap a f).inst = s.inst := rfl
@[simp] theorem State.modCap_zones (s : State) (a : Arm) (f : Capture → Capture) : (s.modCap a f).zones = s.zones := rfl
@[simp] theorem State.modCap_zoneTie (s : State) (a : Arm) (f : Capture → Capture) : (s.modCap a f).zoneTie = s.zoneTie := rfl
@[simp] theorem State.modCap_rack (s : State) (a : Arm) (f : Capture → Capture) : (s.modCap a f).rack = s.rack := rfl
@[simp] theorem State.modCap_probes (s : State) (a : Arm) (f : Capture → Capture) : (s.modCap a f).probes = s.probes := rfl
@[simp] theorem State.modCap_thermal (s : State) (a : Arm) (f : Capture → Capture) : (s.modCap a f).thermal = s.thermal := rfl
@[simp] theorem State.modCap_maps (s : State) (a : Arm) (f : Capture → Capture) : (s.modCap a f).maps = s.maps := rfl
@[simp] theorem State.modCap_draws (s : State) (a : Arm) (f : Capture → Capture) : (s.modCap a f).draws = s.draws := rfl
@[simp] theorem State.modCap_out (s : State) (a : Arm) (f : Capture → Capture) : (s.modCap a f).out = s.out := rfl
@[simp] theorem State.modCap_pending (s : State) (a : Arm) (f : Capture → Capture) : (s.modCap a f).pending = s.pending := rfl

@[simp] theorem State.modHead_device (s : State) (a : Arm) (f : Head → Head) : (s.modHead a f).device = s.device := rfl
@[simp] theorem State.modHead_startResult (s : State) (a : Arm) (f : Head → Head) : (s.modHead a f).startResult = s.startResult := rfl
@[simp] theorem State.modHead_resetting (s : State) (a : Arm) (f : Head → Head) : (s.modHead a f).resetting = s.resetting := rfl
@[simp] theorem State.modHead_cause (s : State) (a : Arm) (f : Head → Head) : (s.modHead a f).cause = s.cause := rfl
@[simp] theorem State.modHead_mask (s : State) (a : Arm) (f : Head → Head) : (s.modHead a f).mask = s.mask := rfl
@[simp] theorem State.modHead_areaCode (s : State) (a : Arm) (f : Head → Head) : (s.modHead a f).areaCode = s.areaCode := rfl
@[simp] theorem State.modHead_areaOffset (s : State) (a : Arm) (f : Head → Head) : (s.modHead a f).areaOffset = s.areaOffset := rfl
@[simp] theorem State.modHead_ignoredCmds (s : State) (a : Arm) (f : Head → Head) : (s.modHead a f).ignoredCmds = s.ignoredCmds := rfl
@[simp] theorem State.modHead_estop (s : State) (a : Arm) (f : Head → Head) : (s.modHead a f).estop = s.estop := rfl
@[simp] theorem State.modHead_now (s : State) (a : Arm) (f : Head → Head) : (s.modHead a f).now = s.now := rfl
@[simp] theorem State.modHead_mem (s : State) (a : Arm) (f : Head → Head) : (s.modHead a f).mem = s.mem := rfl
@[simp] theorem State.modHead_sections (s : State) (a : Arm) (f : Head → Head) : (s.modHead a f).sections = s.sections := rfl
@[simp] theorem State.modHead_reports (s : State) (a : Arm) (f : Head → Head) : (s.modHead a f).reports = s.reports := rfl
@[simp] theorem State.modHead_scanning (s : State) (a : Arm) (f : Head → Head) : (s.modHead a f).scanning = s.scanning := rfl
@[simp] theorem State.modHead_scanPending (s : State) (a : Arm) (f : Head → Head) : (s.modHead a f).scanPending = s.scanPending := rfl
@[simp] theorem State.modHead_rescan (s : State) (a : Arm) (f : Head → Head) : (s.modHead a f).rescan = s.rescan := rfl
@[simp] theorem State.modHead_view (s : State) (a : Arm) (f : Head → Head) : (s.modHead a f).view = s.view := rfl
@[simp] theorem State.modHead_inst (s : State) (a : Arm) (f : Head → Head) : (s.modHead a f).inst = s.inst := rfl
@[simp] theorem State.modHead_zones (s : State) (a : Arm) (f : Head → Head) : (s.modHead a f).zones = s.zones := rfl
@[simp] theorem State.modHead_zoneTie (s : State) (a : Arm) (f : Head → Head) : (s.modHead a f).zoneTie = s.zoneTie := rfl
@[simp] theorem State.modHead_rack (s : State) (a : Arm) (f : Head → Head) : (s.modHead a f).rack = s.rack := rfl
@[simp] theorem State.modHead_probes (s : State) (a : Arm) (f : Head → Head) : (s.modHead a f).probes = s.probes := rfl
@[simp] theorem State.modHead_thermal (s : State) (a : Arm) (f : Head → Head) : (s.modHead a f).thermal = s.thermal := rfl
@[simp] theorem State.modHead_maps (s : State) (a : Arm) (f : Head → Head) : (s.modHead a f).maps = s.maps := rfl
@[simp] theorem State.modHead_draws (s : State) (a : Arm) (f : Head → Head) : (s.modHead a f).draws = s.draws := rfl
@[simp] theorem State.modHead_out (s : State) (a : Arm) (f : Head → Head) : (s.modHead a f).out = s.out := rfl
@[simp] theorem State.modHead_pending (s : State) (a : Arm) (f : Head → Head) : (s.modHead a f).pending = s.pending := rfl

@[simp] theorem State.modWr_device (s : State) (a : Arm) (f : Writer → Writer) : (s.modWr a f).device = s.device := rfl
@[simp] theorem State.modWr_startResult (s : State) (a : Arm) (f : Writer → Writer) : (s.modWr a f).startResult = s.startResult := rfl
@[simp] theorem State.modWr_resetting (s : State) (a : Arm) (f : Writer → Writer) : (s.modWr a f).resetting = s.resetting := rfl
@[simp] theorem State.modWr_cause (s : State) (a : Arm) (f : Writer → Writer) : (s.modWr a f).cause = s.cause := rfl
@[simp] theorem State.modWr_mask (s : State) (a : Arm) (f : Writer → Writer) : (s.modWr a f).mask = s.mask := rfl
@[simp] theorem State.modWr_areaCode (s : State) (a : Arm) (f : Writer → Writer) : (s.modWr a f).areaCode = s.areaCode := rfl
@[simp] theorem State.modWr_areaOffset (s : State) (a : Arm) (f : Writer → Writer) : (s.modWr a f).areaOffset = s.areaOffset := rfl
@[simp] theorem State.modWr_ignoredCmds (s : State) (a : Arm) (f : Writer → Writer) : (s.modWr a f).ignoredCmds = s.ignoredCmds := rfl
@[simp] theorem State.modWr_estop (s : State) (a : Arm) (f : Writer → Writer) : (s.modWr a f).estop = s.estop := rfl
@[simp] theorem State.modWr_now (s : State) (a : Arm) (f : Writer → Writer) : (s.modWr a f).now = s.now := rfl
@[simp] theorem State.modWr_mem (s : State) (a : Arm) (f : Writer → Writer) : (s.modWr a f).mem = s.mem := rfl
@[simp] theorem State.modWr_sections (s : State) (a : Arm) (f : Writer → Writer) : (s.modWr a f).sections = s.sections := rfl
@[simp] theorem State.modWr_reports (s : State) (a : Arm) (f : Writer → Writer) : (s.modWr a f).reports = s.reports := rfl
@[simp] theorem State.modWr_scanning (s : State) (a : Arm) (f : Writer → Writer) : (s.modWr a f).scanning = s.scanning := rfl
@[simp] theorem State.modWr_scanPending (s : State) (a : Arm) (f : Writer → Writer) : (s.modWr a f).scanPending = s.scanPending := rfl
@[simp] theorem State.modWr_rescan (s : State) (a : Arm) (f : Writer → Writer) : (s.modWr a f).rescan = s.rescan := rfl
@[simp] theorem State.modWr_view (s : State) (a : Arm) (f : Writer → Writer) : (s.modWr a f).view = s.view := rfl
@[simp] theorem State.modWr_inst (s : State) (a : Arm) (f : Writer → Writer) : (s.modWr a f).inst = s.inst := rfl
@[simp] theorem State.modWr_zones (s : State) (a : Arm) (f : Writer → Writer) : (s.modWr a f).zones = s.zones := rfl
@[simp] theorem State.modWr_zoneTie (s : State) (a : Arm) (f : Writer → Writer) : (s.modWr a f).zoneTie = s.zoneTie := rfl
@[simp] theorem State.modWr_rack (s : State) (a : Arm) (f : Writer → Writer) : (s.modWr a f).rack = s.rack := rfl
@[simp] theorem State.modWr_probes (s : State) (a : Arm) (f : Writer → Writer) : (s.modWr a f).probes = s.probes := rfl
@[simp] theorem State.modWr_thermal (s : State) (a : Arm) (f : Writer → Writer) : (s.modWr a f).thermal = s.thermal := rfl
@[simp] theorem State.modWr_maps (s : State) (a : Arm) (f : Writer → Writer) : (s.modWr a f).maps = s.maps := rfl
@[simp] theorem State.modWr_draws (s : State) (a : Arm) (f : Writer → Writer) : (s.modWr a f).draws = s.draws := rfl
@[simp] theorem State.modWr_out (s : State) (a : Arm) (f : Writer → Writer) : (s.modWr a f).out = s.out := rfl
@[simp] theorem State.modWr_pending (s : State) (a : Arm) (f : Writer → Writer) : (s.modWr a f).pending = s.pending := rfl

@[simp] theorem State.modScale_device (s : State) (a : Arm) (f : Scale → Scale) : (s.modScale a f).device = s.device := rfl
@[simp] theorem State.modScale_startResult (s : State) (a : Arm) (f : Scale → Scale) : (s.modScale a f).startResult = s.startResult := rfl
@[simp] theorem State.modScale_resetting (s : State) (a : Arm) (f : Scale → Scale) : (s.modScale a f).resetting = s.resetting := rfl
@[simp] theorem State.modScale_cause (s : State) (a : Arm) (f : Scale → Scale) : (s.modScale a f).cause = s.cause := rfl
@[simp] theorem State.modScale_mask (s : State) (a : Arm) (f : Scale → Scale) : (s.modScale a f).mask = s.mask := rfl
@[simp] theorem State.modScale_areaCode (s : State) (a : Arm) (f : Scale → Scale) : (s.modScale a f).areaCode = s.areaCode := rfl
@[simp] theorem State.modScale_areaOffset (s : State) (a : Arm) (f : Scale → Scale) : (s.modScale a f).areaOffset = s.areaOffset := rfl
@[simp] theorem State.modScale_ignoredCmds (s : State) (a : Arm) (f : Scale → Scale) : (s.modScale a f).ignoredCmds = s.ignoredCmds := rfl
@[simp] theorem State.modScale_estop (s : State) (a : Arm) (f : Scale → Scale) : (s.modScale a f).estop = s.estop := rfl
@[simp] theorem State.modScale_now (s : State) (a : Arm) (f : Scale → Scale) : (s.modScale a f).now = s.now := rfl
@[simp] theorem State.modScale_mem (s : State) (a : Arm) (f : Scale → Scale) : (s.modScale a f).mem = s.mem := rfl
@[simp] theorem State.modScale_sections (s : State) (a : Arm) (f : Scale → Scale) : (s.modScale a f).sections = s.sections := rfl
@[simp] theorem State.modScale_reports (s : State) (a : Arm) (f : Scale → Scale) : (s.modScale a f).reports = s.reports := rfl
@[simp] theorem State.modScale_scanning (s : State) (a : Arm) (f : Scale → Scale) : (s.modScale a f).scanning = s.scanning := rfl
@[simp] theorem State.modScale_scanPending (s : State) (a : Arm) (f : Scale → Scale) : (s.modScale a f).scanPending = s.scanPending := rfl
@[simp] theorem State.modScale_rescan (s : State) (a : Arm) (f : Scale → Scale) : (s.modScale a f).rescan = s.rescan := rfl
@[simp] theorem State.modScale_view (s : State) (a : Arm) (f : Scale → Scale) : (s.modScale a f).view = s.view := rfl
@[simp] theorem State.modScale_inst (s : State) (a : Arm) (f : Scale → Scale) : (s.modScale a f).inst = s.inst := rfl
@[simp] theorem State.modScale_zones (s : State) (a : Arm) (f : Scale → Scale) : (s.modScale a f).zones = s.zones := rfl
@[simp] theorem State.modScale_zoneTie (s : State) (a : Arm) (f : Scale → Scale) : (s.modScale a f).zoneTie = s.zoneTie := rfl
@[simp] theorem State.modScale_rack (s : State) (a : Arm) (f : Scale → Scale) : (s.modScale a f).rack = s.rack := rfl
@[simp] theorem State.modScale_probes (s : State) (a : Arm) (f : Scale → Scale) : (s.modScale a f).probes = s.probes := rfl
@[simp] theorem State.modScale_thermal (s : State) (a : Arm) (f : Scale → Scale) : (s.modScale a f).thermal = s.thermal := rfl
@[simp] theorem State.modScale_maps (s : State) (a : Arm) (f : Scale → Scale) : (s.modScale a f).maps = s.maps := rfl
@[simp] theorem State.modScale_draws (s : State) (a : Arm) (f : Scale → Scale) : (s.modScale a f).draws = s.draws := rfl
@[simp] theorem State.modScale_out (s : State) (a : Arm) (f : Scale → Scale) : (s.modScale a f).out = s.out := rfl
@[simp] theorem State.modScale_pending (s : State) (a : Arm) (f : Scale → Scale) : (s.modScale a f).pending = s.pending := rfl

@[simp] theorem State.setChange_device (s : State) (a : Arm) (c : Option Change) : (s.setChange a c).device = s.device := rfl
@[simp] theorem State.setChange_startResult (s : State) (a : Arm) (c : Option Change) : (s.setChange a c).startResult = s.startResult := rfl
@[simp] theorem State.setChange_resetting (s : State) (a : Arm) (c : Option Change) : (s.setChange a c).resetting = s.resetting := rfl
@[simp] theorem State.setChange_cause (s : State) (a : Arm) (c : Option Change) : (s.setChange a c).cause = s.cause := rfl
@[simp] theorem State.setChange_mask (s : State) (a : Arm) (c : Option Change) : (s.setChange a c).mask = s.mask := rfl
@[simp] theorem State.setChange_areaCode (s : State) (a : Arm) (c : Option Change) : (s.setChange a c).areaCode = s.areaCode := rfl
@[simp] theorem State.setChange_areaOffset (s : State) (a : Arm) (c : Option Change) : (s.setChange a c).areaOffset = s.areaOffset := rfl
@[simp] theorem State.setChange_ignoredCmds (s : State) (a : Arm) (c : Option Change) : (s.setChange a c).ignoredCmds = s.ignoredCmds := rfl
@[simp] theorem State.setChange_estop (s : State) (a : Arm) (c : Option Change) : (s.setChange a c).estop = s.estop := rfl
@[simp] theorem State.setChange_now (s : State) (a : Arm) (c : Option Change) : (s.setChange a c).now = s.now := rfl
@[simp] theorem State.setChange_mem (s : State) (a : Arm) (c : Option Change) : (s.setChange a c).mem = s.mem := rfl
@[simp] theorem State.setChange_sections (s : State) (a : Arm) (c : Option Change) : (s.setChange a c).sections = s.sections := rfl
@[simp] theorem State.setChange_reports (s : State) (a : Arm) (c : Option Change) : (s.setChange a c).reports = s.reports := rfl
@[simp] theorem State.setChange_scanning (s : State) (a : Arm) (c : Option Change) : (s.setChange a c).scanning = s.scanning := rfl
@[simp] theorem State.setChange_scanPending (s : State) (a : Arm) (c : Option Change) : (s.setChange a c).scanPending = s.scanPending := rfl
@[simp] theorem State.setChange_rescan (s : State) (a : Arm) (c : Option Change) : (s.setChange a c).rescan = s.rescan := rfl
@[simp] theorem State.setChange_view (s : State) (a : Arm) (c : Option Change) : (s.setChange a c).view = s.view := rfl
@[simp] theorem State.setChange_inst (s : State) (a : Arm) (c : Option Change) : (s.setChange a c).inst = s.inst := rfl
@[simp] theorem State.setChange_zones (s : State) (a : Arm) (c : Option Change) : (s.setChange a c).zones = s.zones := rfl
@[simp] theorem State.setChange_zoneTie (s : State) (a : Arm) (c : Option Change) : (s.setChange a c).zoneTie = s.zoneTie := rfl
@[simp] theorem State.setChange_rack (s : State) (a : Arm) (c : Option Change) : (s.setChange a c).rack = s.rack := rfl
@[simp] theorem State.setChange_probes (s : State) (a : Arm) (c : Option Change) : (s.setChange a c).probes = s.probes := rfl
@[simp] theorem State.setChange_thermal (s : State) (a : Arm) (c : Option Change) : (s.setChange a c).thermal = s.thermal := rfl
@[simp] theorem State.setChange_maps (s : State) (a : Arm) (c : Option Change) : (s.setChange a c).maps = s.maps := rfl
@[simp] theorem State.setChange_draws (s : State) (a : Arm) (c : Option Change) : (s.setChange a c).draws = s.draws := rfl
@[simp] theorem State.setChange_out (s : State) (a : Arm) (c : Option Change) : (s.setChange a c).out = s.out := rfl
@[simp] theorem State.setChange_pending (s : State) (a : Arm) (c : Option Change) : (s.setChange a c).pending = s.pending := rfl

@[simp] theorem State.modThermal_device (s : State) (f : Thermal → Thermal) : (s.modThermal f).device = s.device := rfl
@[simp] theorem State.modThermal_startResult (s : State) (f : Thermal → Thermal) : (s.modThermal f).startResult = s.startResult := rfl
@[simp] theorem State.modThermal_resetting (s : State) (f : Thermal → Thermal) : (s.modThermal f).resetting = s.resetting := rfl
@[simp] theorem State.modThermal_cause (s : State) (f : Thermal → Thermal) : (s.modThermal f).cause = s.cause := rfl
@[simp] theorem State.modThermal_mask (s : State) (f : Thermal → Thermal) : (s.modThermal f).mask = s.mask := rfl
@[simp] theorem State.modThermal_areaCode (s : State) (f : Thermal → Thermal) : (s.modThermal f).areaCode = s.areaCode := rfl
@[simp] theorem State.modThermal_areaOffset (s : State) (f : Thermal → Thermal) : (s.modThermal f).areaOffset = s.areaOffset := rfl
@[simp] theorem State.modThermal_ignoredCmds (s : State) (f : Thermal → Thermal) : (s.modThermal f).ignoredCmds = s.ignoredCmds := rfl
@[simp] theorem State.modThermal_estop (s : State) (f : Thermal → Thermal) : (s.modThermal f).estop = s.estop := rfl
@[simp] theorem State.modThermal_now (s : State) (f : Thermal → Thermal) : (s.modThermal f).now = s.now := rfl
@[simp] theorem State.modThermal_mem (s : State) (f : Thermal → Thermal) : (s.modThermal f).mem = s.mem := rfl
@[simp] theorem State.modThermal_sections (s : State) (f : Thermal → Thermal) : (s.modThermal f).sections = s.sections := rfl
@[simp] theorem State.modThermal_reports (s : State) (f : Thermal → Thermal) : (s.modThermal f).reports = s.reports := rfl
@[simp] theorem State.modThermal_scanning (s : State) (f : Thermal → Thermal) : (s.modThermal f).scanning = s.scanning := rfl
@[simp] theorem State.modThermal_scanPending (s : State) (f : Thermal → Thermal) : (s.modThermal f).scanPending = s.scanPending := rfl
@[simp] theorem State.modThermal_rescan (s : State) (f : Thermal → Thermal) : (s.modThermal f).rescan = s.rescan := rfl
@[simp] theorem State.modThermal_view (s : State) (f : Thermal → Thermal) : (s.modThermal f).view = s.view := rfl
@[simp] theorem State.modThermal_inst (s : State) (f : Thermal → Thermal) : (s.modThermal f).inst = s.inst := rfl
@[simp] theorem State.modThermal_arms (s : State) (f : Thermal → Thermal) : (s.modThermal f).arms = s.arms := rfl
@[simp] theorem State.modThermal_zones (s : State) (f : Thermal → Thermal) : (s.modThermal f).zones = s.zones := rfl
@[simp] theorem State.modThermal_zoneTie (s : State) (f : Thermal → Thermal) : (s.modThermal f).zoneTie = s.zoneTie := rfl
@[simp] theorem State.modThermal_rack (s : State) (f : Thermal → Thermal) : (s.modThermal f).rack = s.rack := rfl
@[simp] theorem State.modThermal_probes (s : State) (f : Thermal → Thermal) : (s.modThermal f).probes = s.probes := rfl
@[simp] theorem State.modThermal_maps (s : State) (f : Thermal → Thermal) : (s.modThermal f).maps = s.maps := rfl
@[simp] theorem State.modThermal_draws (s : State) (f : Thermal → Thermal) : (s.modThermal f).draws = s.draws := rfl
@[simp] theorem State.modThermal_out (s : State) (f : Thermal → Thermal) : (s.modThermal f).out = s.out := rfl
@[simp] theorem State.modThermal_pending (s : State) (f : Thermal → Thermal) : (s.modThermal f).pending = s.pending := rfl

@[simp] theorem State.send_device (s : State) (o : LinkOut) : (s.send o).device = s.device := rfl
@[simp] theorem State.send_startResult (s : State) (o : LinkOut) : (s.send o).startResult = s.startResult := rfl
@[simp] theorem State.send_resetting (s : State) (o : LinkOut) : (s.send o).resetting = s.resetting := rfl
@[simp] theorem State.send_cause (s : State) (o : LinkOut) : (s.send o).cause = s.cause := rfl
@[simp] theorem State.send_mask (s : State) (o : LinkOut) : (s.send o).mask = s.mask := rfl
@[simp] theorem State.send_areaCode (s : State) (o : LinkOut) : (s.send o).areaCode = s.areaCode := rfl
@[simp] theorem State.send_areaOffset (s : State) (o : LinkOut) : (s.send o).areaOffset = s.areaOffset := rfl
@[simp] theorem State.send_ignoredCmds (s : State) (o : LinkOut) : (s.send o).ignoredCmds = s.ignoredCmds := rfl
@[simp] theorem State.send_estop (s : State) (o : LinkOut) : (s.send o).estop = s.estop := rfl
@[simp] theorem State.send_now (s : State) (o : LinkOut) : (s.send o).now = s.now := rfl
@[simp] theorem State.send_mem (s : State) (o : LinkOut) : (s.send o).mem = s.mem := rfl
@[simp] theorem State.send_sections (s : State) (o : LinkOut) : (s.send o).sections = s.sections := rfl
@[simp] theorem State.send_reports (s : State) (o : LinkOut) : (s.send o).reports = s.reports := rfl
@[simp] theorem State.send_scanning (s : State) (o : LinkOut) : (s.send o).scanning = s.scanning := rfl
@[simp] theorem State.send_scanPending (s : State) (o : LinkOut) : (s.send o).scanPending = s.scanPending := rfl
@[simp] theorem State.send_rescan (s : State) (o : LinkOut) : (s.send o).rescan = s.rescan := rfl
@[simp] theorem State.send_view (s : State) (o : LinkOut) : (s.send o).view = s.view := rfl
@[simp] theorem State.send_inst (s : State) (o : LinkOut) : (s.send o).inst = s.inst := rfl
@[simp] theorem State.send_arms (s : State) (o : LinkOut) : (s.send o).arms = s.arms := rfl
@[simp] theorem State.send_zones (s : State) (o : LinkOut) : (s.send o).zones = s.zones := rfl
@[simp] theorem State.send_zoneTie (s : State) (o : LinkOut) : (s.send o).zoneTie = s.zoneTie := rfl
@[simp] theorem State.send_rack (s : State) (o : LinkOut) : (s.send o).rack = s.rack := rfl
@[simp] theorem State.send_probes (s : State) (o : LinkOut) : (s.send o).probes = s.probes := rfl
@[simp] theorem State.send_thermal (s : State) (o : LinkOut) : (s.send o).thermal = s.thermal := rfl
@[simp] theorem State.send_maps (s : State) (o : LinkOut) : (s.send o).maps = s.maps := rfl
@[simp] theorem State.send_draws (s : State) (o : LinkOut) : (s.send o).draws = s.draws := rfl
@[simp] theorem State.send_pending (s : State) (o : LinkOut) : (s.send o).pending = s.pending := rfl

@[simp] theorem State.opened_device (s : State) : (s.opened).device = s.device := rfl
@[simp] theorem State.opened_startResult (s : State) : (s.opened).startResult = s.startResult := rfl
@[simp] theorem State.opened_resetting (s : State) : (s.opened).resetting = s.resetting := rfl
@[simp] theorem State.opened_cause (s : State) : (s.opened).cause = s.cause := rfl
@[simp] theorem State.opened_mask (s : State) : (s.opened).mask = s.mask := rfl
@[simp] theorem State.opened_areaCode (s : State) : (s.opened).areaCode = s.areaCode := rfl
@[simp] theorem State.opened_areaOffset (s : State) : (s.opened).areaOffset = s.areaOffset := rfl
@[simp] theorem State.opened_ignoredCmds (s : State) : (s.opened).ignoredCmds = s.ignoredCmds := rfl
@[simp] theorem State.opened_estop (s : State) : (s.opened).estop = s.estop := rfl
@[simp] theorem State.opened_now (s : State) : (s.opened).now = s.now := rfl
@[simp] theorem State.opened_mem (s : State) : (s.opened).mem = s.mem := rfl
@[simp] theorem State.opened_sections (s : State) : (s.opened).sections = s.sections := rfl
@[simp] theorem State.opened_reports (s : State) : (s.opened).reports = s.reports := rfl
@[simp] theorem State.opened_scanning (s : State) : (s.opened).scanning = s.scanning := rfl
@[simp] theorem State.opened_scanPending (s : State) : (s.opened).scanPending = s.scanPending := rfl
@[simp] theorem State.opened_rescan (s : State) : (s.opened).rescan = s.rescan := rfl
@[simp] theorem State.opened_view (s : State) : (s.opened).view = s.view := rfl
@[simp] theorem State.opened_inst (s : State) : (s.opened).inst = s.inst := rfl
@[simp] theorem State.opened_arms (s : State) : (s.opened).arms = s.arms := rfl
@[simp] theorem State.opened_zones (s : State) : (s.opened).zones = s.zones := rfl
@[simp] theorem State.opened_zoneTie (s : State) : (s.opened).zoneTie = s.zoneTie := rfl
@[simp] theorem State.opened_rack (s : State) : (s.opened).rack = s.rack := rfl
@[simp] theorem State.opened_probes (s : State) : (s.opened).probes = s.probes := rfl
@[simp] theorem State.opened_thermal (s : State) : (s.opened).thermal = s.thermal := rfl
@[simp] theorem State.opened_maps (s : State) : (s.opened).maps = s.maps := rfl
@[simp] theorem State.opened_draws (s : State) : (s.opened).draws = s.draws := rfl
@[simp] theorem State.opened_pending (s : State) : (s.opened).pending = s.pending := rfl

@[simp] theorem State.tick_device (s : State) : (s.tick).device = s.device := rfl
@[simp] theorem State.tick_startResult (s : State) : (s.tick).startResult = s.startResult := rfl
@[simp] theorem State.tick_resetting (s : State) : (s.tick).resetting = s.resetting := rfl
@[simp] theorem State.tick_cause (s : State) : (s.tick).cause = s.cause := rfl
@[simp] theorem State.tick_mask (s : State) : (s.tick).mask = s.mask := rfl
@[simp] theorem State.tick_areaCode (s : State) : (s.tick).areaCode = s.areaCode := rfl
@[simp] theorem State.tick_areaOffset (s : State) : (s.tick).areaOffset = s.areaOffset := rfl
@[simp] theorem State.tick_ignoredCmds (s : State) : (s.tick).ignoredCmds = s.ignoredCmds := rfl
@[simp] theorem State.tick_estop (s : State) : (s.tick).estop = s.estop := rfl
@[simp] theorem State.tick_mem (s : State) : (s.tick).mem = s.mem := rfl
@[simp] theorem State.tick_sections (s : State) : (s.tick).sections = s.sections := rfl
@[simp] theorem State.tick_reports (s : State) : (s.tick).reports = s.reports := rfl
@[simp] theorem State.tick_scanning (s : State) : (s.tick).scanning = s.scanning := rfl
@[simp] theorem State.tick_scanPending (s : State) : (s.tick).scanPending = s.scanPending := rfl
@[simp] theorem State.tick_rescan (s : State) : (s.tick).rescan = s.rescan := rfl
@[simp] theorem State.tick_view (s : State) : (s.tick).view = s.view := rfl
@[simp] theorem State.tick_inst (s : State) : (s.tick).inst = s.inst := rfl
@[simp] theorem State.tick_arms (s : State) : (s.tick).arms = s.arms := rfl
@[simp] theorem State.tick_zones (s : State) : (s.tick).zones = s.zones := rfl
@[simp] theorem State.tick_zoneTie (s : State) : (s.tick).zoneTie = s.zoneTie := rfl
@[simp] theorem State.tick_rack (s : State) : (s.tick).rack = s.rack := rfl
@[simp] theorem State.tick_probes (s : State) : (s.tick).probes = s.probes := rfl
@[simp] theorem State.tick_thermal (s : State) : (s.tick).thermal = s.thermal := rfl
@[simp] theorem State.tick_maps (s : State) : (s.tick).maps = s.maps := rfl
@[simp] theorem State.tick_draws (s : State) : (s.tick).draws = s.draws := rfl
@[simp] theorem State.tick_out (s : State) : (s.tick).out = s.out := rfl
@[simp] theorem State.tick_pending (s : State) : (s.tick).pending = s.pending := rfl

@[simp] theorem State.write_device (s : State) (a : Nat) (bs : List Byte) : (s.write a bs).device = s.device := rfl
@[simp] theorem State.write_startResult (s : State) (a : Nat) (bs : List Byte) : (s.write a bs).startResult = s.startResult := rfl
@[simp] theorem State.write_resetting (s : State) (a : Nat) (bs : List Byte) : (s.write a bs).resetting = s.resetting := rfl
@[simp] theorem State.write_cause (s : State) (a : Nat) (bs : List Byte) : (s.write a bs).cause = s.cause := rfl
@[simp] theorem State.write_mask (s : State) (a : Nat) (bs : List Byte) : (s.write a bs).mask = s.mask := rfl
@[simp] theorem State.write_areaCode (s : State) (a : Nat) (bs : List Byte) : (s.write a bs).areaCode = s.areaCode := rfl
@[simp] theorem State.write_areaOffset (s : State) (a : Nat) (bs : List Byte) : (s.write a bs).areaOffset = s.areaOffset := rfl
@[simp] theorem State.write_ignoredCmds (s : State) (a : Nat) (bs : List Byte) : (s.write a bs).ignoredCmds = s.ignoredCmds := rfl
@[simp] theorem State.write_estop (s : State) (a : Nat) (bs : List Byte) : (s.write a bs).estop = s.estop := rfl
@[simp] theorem State.write_now (s : State) (a : Nat) (bs : List Byte) : (s.write a bs).now = s.now := rfl
@[simp] theorem State.write_sections (s : State) (a : Nat) (bs : List Byte) : (s.write a bs).sections = s.sections := rfl
@[simp] theorem State.write_reports (s : State) (a : Nat) (bs : List Byte) : (s.write a bs).reports = s.reports := rfl
@[simp] theorem State.write_scanning (s : State) (a : Nat) (bs : List Byte) : (s.write a bs).scanning = s.scanning := rfl
@[simp] theorem State.write_scanPending (s : State) (a : Nat) (bs : List Byte) : (s.write a bs).scanPending = s.scanPending := rfl
@[simp] theorem State.write_rescan (s : State) (a : Nat) (bs : List Byte) : (s.write a bs).rescan = s.rescan := rfl
@[simp] theorem State.write_view (s : State) (a : Nat) (bs : List Byte) : (s.write a bs).view = s.view := rfl
@[simp] theorem State.write_inst (s : State) (a : Nat) (bs : List Byte) : (s.write a bs).inst = s.inst := rfl
@[simp] theorem State.write_arms (s : State) (a : Nat) (bs : List Byte) : (s.write a bs).arms = s.arms := rfl
@[simp] theorem State.write_zones (s : State) (a : Nat) (bs : List Byte) : (s.write a bs).zones = s.zones := rfl
@[simp] theorem State.write_zoneTie (s : State) (a : Nat) (bs : List Byte) : (s.write a bs).zoneTie = s.zoneTie := rfl
@[simp] theorem State.write_rack (s : State) (a : Nat) (bs : List Byte) : (s.write a bs).rack = s.rack := rfl
@[simp] theorem State.write_probes (s : State) (a : Nat) (bs : List Byte) : (s.write a bs).probes = s.probes := rfl
@[simp] theorem State.write_thermal (s : State) (a : Nat) (bs : List Byte) : (s.write a bs).thermal = s.thermal := rfl
@[simp] theorem State.write_maps (s : State) (a : Nat) (bs : List Byte) : (s.write a bs).maps = s.maps := rfl
@[simp] theorem State.write_draws (s : State) (a : Nat) (bs : List Byte) : (s.write a bs).draws = s.draws := rfl
@[simp] theorem State.write_out (s : State) (a : Nat) (bs : List Byte) : (s.write a bs).out = s.out := rfl
@[simp] theorem State.write_pending (s : State) (a : Nat) (bs : List Byte) : (s.write a bs).pending = s.pending := rfl

@[simp] theorem State.setSection_device (s : State) (x : Section) (v : SectionState) : (s.setSection x v).device = s.device := rfl
@[simp] theorem State.setSection_startResult (s : State) (x : Section) (v : SectionState) : (s.setSection x v).startResult = s.startResult := rfl
@[simp] theorem State.setSection_resetting (s : State) (x : Section) (v : SectionState) : (s.setSection x v).resetting = s.resetting := rfl
@[simp] theorem State.setSection_cause (s : State) (x : Section) (v : SectionState) : (s.setSection x v).cause = s.cause := rfl
@[simp] theorem State.setSection_mask (s : State) (x : Section) (v : SectionState) : (s.setSection x v).mask = s.mask := rfl
@[simp] theorem State.setSection_areaCode (s : State) (x : Section) (v : SectionState) : (s.setSection x v).areaCode = s.areaCode := rfl
@[simp] theorem State.setSection_areaOffset (s : State) (x : Section) (v : SectionState) : (s.setSection x v).areaOffset = s.areaOffset := rfl
@[simp] theorem State.setSection_ignoredCmds (s : State) (x : Section) (v : SectionState) : (s.setSection x v).ignoredCmds = s.ignoredCmds := rfl
@[simp] theorem State.setSection_estop (s : State) (x : Section) (v : SectionState) : (s.setSection x v).estop = s.estop := rfl
@[simp] theorem State.setSection_now (s : State) (x : Section) (v : SectionState) : (s.setSection x v).now = s.now := rfl
@[simp] theorem State.setSection_mem (s : State) (x : Section) (v : SectionState) : (s.setSection x v).mem = s.mem := rfl
@[simp] theorem State.setSection_reports (s : State) (x : Section) (v : SectionState) : (s.setSection x v).reports = s.reports := rfl
@[simp] theorem State.setSection_scanning (s : State) (x : Section) (v : SectionState) : (s.setSection x v).scanning = s.scanning := rfl
@[simp] theorem State.setSection_scanPending (s : State) (x : Section) (v : SectionState) : (s.setSection x v).scanPending = s.scanPending := rfl
@[simp] theorem State.setSection_rescan (s : State) (x : Section) (v : SectionState) : (s.setSection x v).rescan = s.rescan := rfl
@[simp] theorem State.setSection_view (s : State) (x : Section) (v : SectionState) : (s.setSection x v).view = s.view := rfl
@[simp] theorem State.setSection_inst (s : State) (x : Section) (v : SectionState) : (s.setSection x v).inst = s.inst := rfl
@[simp] theorem State.setSection_arms (s : State) (x : Section) (v : SectionState) : (s.setSection x v).arms = s.arms := rfl
@[simp] theorem State.setSection_zones (s : State) (x : Section) (v : SectionState) : (s.setSection x v).zones = s.zones := rfl
@[simp] theorem State.setSection_zoneTie (s : State) (x : Section) (v : SectionState) : (s.setSection x v).zoneTie = s.zoneTie := rfl
@[simp] theorem State.setSection_rack (s : State) (x : Section) (v : SectionState) : (s.setSection x v).rack = s.rack := rfl
@[simp] theorem State.setSection_probes (s : State) (x : Section) (v : SectionState) : (s.setSection x v).probes = s.probes := rfl
@[simp] theorem State.setSection_thermal (s : State) (x : Section) (v : SectionState) : (s.setSection x v).thermal = s.thermal := rfl
@[simp] theorem State.setSection_maps (s : State) (x : Section) (v : SectionState) : (s.setSection x v).maps = s.maps := rfl
@[simp] theorem State.setSection_draws (s : State) (x : Section) (v : SectionState) : (s.setSection x v).draws = s.draws := rfl
@[simp] theorem State.setSection_out (s : State) (x : Section) (v : SectionState) : (s.setSection x v).out = s.out := rfl
@[simp] theorem State.setSection_pending (s : State) (x : Section) (v : SectionState) : (s.setSection x v).pending = s.pending := rfl

@[simp] theorem State.modProbe_device (s : State) (p : Nat) (f : Probe → Probe) : (s.modProbe p f).device = s.device := rfl
@[simp] theorem State.modProbe_startResult (s : State) (p : Nat) (f : Probe → Probe) : (s.modProbe p f).startResult = s.startResult := rfl
@[simp] theorem State.modProbe_resetting (s : State) (p : Nat) (f : Probe → Probe) : (s.modProbe p f).resetting = s.resetting := rfl
@[simp] theorem State.modProbe_cause (s : State) (p : Nat) (f : Probe → Probe) : (s.modProbe p f).cause = s.cause := rfl
@[simp] theorem State.modProbe_mask (s : State) (p : Nat) (f : Probe → Probe) : (s.modProbe p f).mask = s.mask := rfl
@[simp] theorem State.modProbe_areaCode (s : State) (p : Nat) (f : Probe → Probe) : (s.modProbe p f).areaCode = s.areaCode := rfl
@[simp] theorem State.modProbe_areaOffset (s : State) (p : Nat) (f : Probe → Probe) : (s.modProbe p f).areaOffset = s.areaOffset := rfl
@[simp] theorem State.modProbe_ignoredCmds (s : State) (p : Nat) (f : Probe → Probe) : (s.modProbe p f).ignoredCmds = s.ignoredCmds := rfl
@[simp] theorem State.modProbe_estop (s : State) (p : Nat) (f : Probe → Probe) : (s.modProbe p f).estop = s.estop := rfl
@[simp] theorem State.modProbe_now (s : State) (p : Nat) (f : Probe → Probe) : (s.modProbe p f).now = s.now := rfl
@[simp] theorem State.modProbe_mem (s : State) (p : Nat) (f : Probe → Probe) : (s.modProbe p f).mem = s.mem := rfl
@[simp] theorem State.modProbe_sections (s : State) (p : Nat) (f : Probe → Probe) : (s.modProbe p f).sections = s.sections := rfl
@[simp] theorem State.modProbe_reports (s : State) (p : Nat) (f : Probe → Probe) : (s.modProbe p f).reports = s.reports := rfl
@[simp] theorem State.modProbe_scanning (s : State) (p : Nat) (f : Probe → Probe) : (s.modProbe p f).scanning = s.scanning := rfl
@[simp] theorem State.modProbe_scanPending (s : State) (p : Nat) (f : Probe → Probe) : (s.modProbe p f).scanPending = s.scanPending := rfl
@[simp] theorem State.modProbe_rescan (s : State) (p : Nat) (f : Probe → Probe) : (s.modProbe p f).rescan = s.rescan := rfl
@[simp] theorem State.modProbe_view (s : State) (p : Nat) (f : Probe → Probe) : (s.modProbe p f).view = s.view := rfl
@[simp] theorem State.modProbe_inst (s : State) (p : Nat) (f : Probe → Probe) : (s.modProbe p f).inst = s.inst := rfl
@[simp] theorem State.modProbe_arms (s : State) (p : Nat) (f : Probe → Probe) : (s.modProbe p f).arms = s.arms := rfl
@[simp] theorem State.modProbe_zones (s : State) (p : Nat) (f : Probe → Probe) : (s.modProbe p f).zones = s.zones := rfl
@[simp] theorem State.modProbe_zoneTie (s : State) (p : Nat) (f : Probe → Probe) : (s.modProbe p f).zoneTie = s.zoneTie := rfl
@[simp] theorem State.modProbe_rack (s : State) (p : Nat) (f : Probe → Probe) : (s.modProbe p f).rack = s.rack := rfl
@[simp] theorem State.modProbe_thermal (s : State) (p : Nat) (f : Probe → Probe) : (s.modProbe p f).thermal = s.thermal := rfl
@[simp] theorem State.modProbe_maps (s : State) (p : Nat) (f : Probe → Probe) : (s.modProbe p f).maps = s.maps := rfl
@[simp] theorem State.modProbe_draws (s : State) (p : Nat) (f : Probe → Probe) : (s.modProbe p f).draws = s.draws := rfl
@[simp] theorem State.modProbe_out (s : State) (p : Nat) (f : Probe → Probe) : (s.modProbe p f).out = s.out := rfl
@[simp] theorem State.modProbe_pending (s : State) (p : Nat) (f : Probe → Probe) : (s.modProbe p f).pending = s.pending := rfl

@[simp] theorem State.modPort_device (s : State) (n : Nat) (f : Port → Port) : (s.modPort n f).device = s.device := rfl
@[simp] theorem State.modPort_startResult (s : State) (n : Nat) (f : Port → Port) : (s.modPort n f).startResult = s.startResult := rfl
@[simp] theorem State.modPort_resetting (s : State) (n : Nat) (f : Port → Port) : (s.modPort n f).resetting = s.resetting := rfl
@[simp] theorem State.modPort_cause (s : State) (n : Nat) (f : Port → Port) : (s.modPort n f).cause = s.cause := rfl
@[simp] theorem State.modPort_mask (s : State) (n : Nat) (f : Port → Port) : (s.modPort n f).mask = s.mask := rfl
@[simp] theorem State.modPort_areaCode (s : State) (n : Nat) (f : Port → Port) : (s.modPort n f).areaCode = s.areaCode := rfl
@[simp] theorem State.modPort_areaOffset (s : State) (n : Nat) (f : Port → Port) : (s.modPort n f).areaOffset = s.areaOffset := rfl
@[simp] theorem State.modPort_ignoredCmds (s : State) (n : Nat) (f : Port → Port) : (s.modPort n f).ignoredCmds = s.ignoredCmds := rfl
@[simp] theorem State.modPort_estop (s : State) (n : Nat) (f : Port → Port) : (s.modPort n f).estop = s.estop := rfl
@[simp] theorem State.modPort_now (s : State) (n : Nat) (f : Port → Port) : (s.modPort n f).now = s.now := rfl
@[simp] theorem State.modPort_mem (s : State) (n : Nat) (f : Port → Port) : (s.modPort n f).mem = s.mem := rfl
@[simp] theorem State.modPort_sections (s : State) (n : Nat) (f : Port → Port) : (s.modPort n f).sections = s.sections := rfl
@[simp] theorem State.modPort_reports (s : State) (n : Nat) (f : Port → Port) : (s.modPort n f).reports = s.reports := rfl
@[simp] theorem State.modPort_scanning (s : State) (n : Nat) (f : Port → Port) : (s.modPort n f).scanning = s.scanning := rfl
@[simp] theorem State.modPort_scanPending (s : State) (n : Nat) (f : Port → Port) : (s.modPort n f).scanPending = s.scanPending := rfl
@[simp] theorem State.modPort_rescan (s : State) (n : Nat) (f : Port → Port) : (s.modPort n f).rescan = s.rescan := rfl
@[simp] theorem State.modPort_view (s : State) (n : Nat) (f : Port → Port) : (s.modPort n f).view = s.view := rfl
@[simp] theorem State.modPort_inst (s : State) (n : Nat) (f : Port → Port) : (s.modPort n f).inst = s.inst := rfl
@[simp] theorem State.modPort_arms (s : State) (n : Nat) (f : Port → Port) : (s.modPort n f).arms = s.arms := rfl
@[simp] theorem State.modPort_zones (s : State) (n : Nat) (f : Port → Port) : (s.modPort n f).zones = s.zones := rfl
@[simp] theorem State.modPort_zoneTie (s : State) (n : Nat) (f : Port → Port) : (s.modPort n f).zoneTie = s.zoneTie := rfl
@[simp] theorem State.modPort_probes (s : State) (n : Nat) (f : Port → Port) : (s.modPort n f).probes = s.probes := rfl
@[simp] theorem State.modPort_thermal (s : State) (n : Nat) (f : Port → Port) : (s.modPort n f).thermal = s.thermal := rfl
@[simp] theorem State.modPort_maps (s : State) (n : Nat) (f : Port → Port) : (s.modPort n f).maps = s.maps := rfl
@[simp] theorem State.modPort_draws (s : State) (n : Nat) (f : Port → Port) : (s.modPort n f).draws = s.draws := rfl
@[simp] theorem State.modPort_out (s : State) (n : Nat) (f : Port → Port) : (s.modPort n f).out = s.out := rfl
@[simp] theorem State.modPort_pending (s : State) (n : Nat) (f : Port → Port) : (s.modPort n f).pending = s.pending := rfl

@[simp] theorem setCause_device (s : State) (c : Cause) : (setCause c s).device = s.device := rfl
@[simp] theorem setCause_startResult (s : State) (c : Cause) : (setCause c s).startResult = s.startResult := rfl
@[simp] theorem setCause_resetting (s : State) (c : Cause) : (setCause c s).resetting = s.resetting := rfl
@[simp] theorem setCause_mask (s : State) (c : Cause) : (setCause c s).mask = s.mask := rfl
@[simp] theorem setCause_areaCode (s : State) (c : Cause) : (setCause c s).areaCode = s.areaCode := rfl
@[simp] theorem setCause_areaOffset (s : State) (c : Cause) : (setCause c s).areaOffset = s.areaOffset := rfl
@[simp] theorem setCause_ignoredCmds (s : State) (c : Cause) : (setCause c s).ignoredCmds = s.ignoredCmds := rfl
@[simp] theorem setCause_estop (s : State) (c : Cause) : (setCause c s).estop = s.estop := rfl
@[simp] theorem setCause_now (s : State) (c : Cause) : (setCause c s).now = s.now := rfl
@[simp] theorem setCause_mem (s : State) (c : Cause) : (setCause c s).mem = s.mem := rfl
@[simp] theorem setCause_sections (s : State) (c : Cause) : (setCause c s).sections = s.sections := rfl
@[simp] theorem setCause_reports (s : State) (c : Cause) : (setCause c s).reports = s.reports := rfl
@[simp] theorem setCause_scanning (s : State) (c : Cause) : (setCause c s).scanning = s.scanning := rfl
@[simp] theorem setCause_scanPending (s : State) (c : Cause) : (setCause c s).scanPending = s.scanPending := rfl
@[simp] theorem setCause_rescan (s : State) (c : Cause) : (setCause c s).rescan = s.rescan := rfl
@[simp] theorem setCause_view (s : State) (c : Cause) : (setCause c s).view = s.view := rfl
@[simp] theorem setCause_inst (s : State) (c : Cause) : (setCause c s).inst = s.inst := rfl
@[simp] theorem setCause_arms (s : State) (c : Cause) : (setCause c s).arms = s.arms := rfl
@[simp] theorem setCause_zones (s : State) (c : Cause) : (setCause c s).zones = s.zones := rfl
@[simp] theorem setCause_zoneTie (s : State) (c : Cause) : (setCause c s).zoneTie = s.zoneTie := rfl
@[simp] theorem setCause_rack (s : State) (c : Cause) : (setCause c s).rack = s.rack := rfl
@[simp] theorem setCause_probes (s : State) (c : Cause) : (setCause c s).probes = s.probes := rfl
@[simp] theorem setCause_thermal (s : State) (c : Cause) : (setCause c s).thermal = s.thermal := rfl
@[simp] theorem setCause_maps (s : State) (c : Cause) : (setCause c s).maps = s.maps := rfl
@[simp] theorem setCause_draws (s : State) (c : Cause) : (setCause c s).draws = s.draws := rfl
@[simp] theorem setCause_out (s : State) (c : Cause) : (setCause c s).out = s.out := rfl
@[simp] theorem setCause_pending (s : State) (c : Cause) : (setCause c s).pending = s.pending := rfl

@[simp] theorem report_device (s : State) (x : Section) : (report x s).device = s.device := rfl
@[simp] theorem report_startResult (s : State) (x : Section) : (report x s).startResult = s.startResult := rfl
@[simp] theorem report_resetting (s : State) (x : Section) : (report x s).resetting = s.resetting := rfl
@[simp] theorem report_cause (s : State) (x : Section) : (report x s).cause = s.cause := rfl
@[simp] theorem report_mask (s : State) (x : Section) : (report x s).mask = s.mask := rfl
@[simp] theorem report_areaCode (s : State) (x : Section) : (report x s).areaCode = s.areaCode := rfl
@[simp] theorem report_areaOffset (s : State) (x : Section) : (report x s).areaOffset = s.areaOffset := rfl
@[simp] theorem report_ignoredCmds (s : State) (x : Section) : (report x s).ignoredCmds = s.ignoredCmds := rfl
@[simp] theorem report_estop (s : State) (x : Section) : (report x s).estop = s.estop := rfl
@[simp] theorem report_now (s : State) (x : Section) : (report x s).now = s.now := rfl
@[simp] theorem report_mem (s : State) (x : Section) : (report x s).mem = s.mem := rfl
@[simp] theorem report_sections (s : State) (x : Section) : (report x s).sections = s.sections := rfl
@[simp] theorem report_scanning (s : State) (x : Section) : (report x s).scanning = s.scanning := rfl
@[simp] theorem report_scanPending (s : State) (x : Section) : (report x s).scanPending = s.scanPending := rfl
@[simp] theorem report_rescan (s : State) (x : Section) : (report x s).rescan = s.rescan := rfl
@[simp] theorem report_view (s : State) (x : Section) : (report x s).view = s.view := rfl
@[simp] theorem report_inst (s : State) (x : Section) : (report x s).inst = s.inst := rfl
@[simp] theorem report_arms (s : State) (x : Section) : (report x s).arms = s.arms := rfl
@[simp] theorem report_zones (s : State) (x : Section) : (report x s).zones = s.zones := rfl
@[simp] theorem report_zoneTie (s : State) (x : Section) : (report x s).zoneTie = s.zoneTie := rfl
@[simp] theorem report_rack (s : State) (x : Section) : (report x s).rack = s.rack := rfl
@[simp] theorem report_probes (s : State) (x : Section) : (report x s).probes = s.probes := rfl
@[simp] theorem report_thermal (s : State) (x : Section) : (report x s).thermal = s.thermal := rfl
@[simp] theorem report_maps (s : State) (x : Section) : (report x s).maps = s.maps := rfl
@[simp] theorem report_draws (s : State) (x : Section) : (report x s).draws = s.draws := rfl
@[simp] theorem report_out (s : State) (x : Section) : (report x s).out = s.out := rfl
@[simp] theorem report_pending (s : State) (x : Section) : (report x s).pending = s.pending := rfl

@[simp] theorem setZones_device (s : State) (z : List Zone) : (setZones z s).device = s.device := rfl
@[simp] theorem setZones_startResult (s : State) (z : List Zone) : (setZones z s).startResult = s.startResult := rfl
@[simp] theorem setZones_resetting (s : State) (z : List Zone) : (setZones z s).resetting = s.resetting := rfl
@[simp] theorem setZones_cause (s : State) (z : List Zone) : (setZones z s).cause = s.cause := rfl
@[simp] theorem setZones_mask (s : State) (z : List Zone) : (setZones z s).mask = s.mask := rfl
@[simp] theorem setZones_areaCode (s : State) (z : List Zone) : (setZones z s).areaCode = s.areaCode := rfl
@[simp] theorem setZones_areaOffset (s : State) (z : List Zone) : (setZones z s).areaOffset = s.areaOffset := rfl
@[simp] theorem setZones_ignoredCmds (s : State) (z : List Zone) : (setZones z s).ignoredCmds = s.ignoredCmds := rfl
@[simp] theorem setZones_estop (s : State) (z : List Zone) : (setZones z s).estop = s.estop := rfl
@[simp] theorem setZones_now (s : State) (z : List Zone) : (setZones z s).now = s.now := rfl
@[simp] theorem setZones_mem (s : State) (z : List Zone) : (setZones z s).mem = s.mem := rfl
@[simp] theorem setZones_sections (s : State) (z : List Zone) : (setZones z s).sections = s.sections := rfl
@[simp] theorem setZones_scanning (s : State) (z : List Zone) : (setZones z s).scanning = s.scanning := rfl
@[simp] theorem setZones_scanPending (s : State) (z : List Zone) : (setZones z s).scanPending = s.scanPending := rfl
@[simp] theorem setZones_rescan (s : State) (z : List Zone) : (setZones z s).rescan = s.rescan := rfl
@[simp] theorem setZones_view (s : State) (z : List Zone) : (setZones z s).view = s.view := rfl
@[simp] theorem setZones_inst (s : State) (z : List Zone) : (setZones z s).inst = s.inst := rfl
@[simp] theorem setZones_arms (s : State) (z : List Zone) : (setZones z s).arms = s.arms := rfl
@[simp] theorem setZones_zoneTie (s : State) (z : List Zone) : (setZones z s).zoneTie = s.zoneTie := rfl
@[simp] theorem setZones_rack (s : State) (z : List Zone) : (setZones z s).rack = s.rack := rfl
@[simp] theorem setZones_probes (s : State) (z : List Zone) : (setZones z s).probes = s.probes := rfl
@[simp] theorem setZones_thermal (s : State) (z : List Zone) : (setZones z s).thermal = s.thermal := rfl
@[simp] theorem setZones_maps (s : State) (z : List Zone) : (setZones z s).maps = s.maps := rfl
@[simp] theorem setZones_draws (s : State) (z : List Zone) : (setZones z s).draws = s.draws := rfl
@[simp] theorem setZones_out (s : State) (z : List Zone) : (setZones z s).out = s.out := rfl
@[simp] theorem setZones_pending (s : State) (z : List Zone) : (setZones z s).pending = s.pending := rfl

@[simp] theorem setRack_device (s : State) (r : Rack) : (setRack r s).device = s.device := rfl
@[simp] theorem setRack_startResult (s : State) (r : Rack) : (setRack r s).startResult = s.startResult := rfl
@[simp] theorem setRack_resetting (s : State) (r : Rack) : (setRack r s).resetting = s.resetting := rfl
@[simp] theorem setRack_cause (s : State) (r : Rack) : (setRack r s).cause = s.cause := rfl
@[simp] theorem setRack_mask (s : State) (r : Rack) : (setRack r s).mask = s.mask := rfl
@[simp] theorem setRack_areaCode (s : State) (r : Rack) : (setRack r s).areaCode = s.areaCode := rfl
@[simp] theorem setRack_areaOffset (s : State) (r : Rack) : (setRack r s).areaOffset = s.areaOffset := rfl
@[simp] theorem setRack_ignoredCmds (s : State) (r : Rack) : (setRack r s).ignoredCmds = s.ignoredCmds := rfl
@[simp] theorem setRack_estop (s : State) (r : Rack) : (setRack r s).estop = s.estop := rfl
@[simp] theorem setRack_now (s : State) (r : Rack) : (setRack r s).now = s.now := rfl
@[simp] theorem setRack_mem (s : State) (r : Rack) : (setRack r s).mem = s.mem := rfl
@[simp] theorem setRack_sections (s : State) (r : Rack) : (setRack r s).sections = s.sections := rfl
@[simp] theorem setRack_scanning (s : State) (r : Rack) : (setRack r s).scanning = s.scanning := rfl
@[simp] theorem setRack_scanPending (s : State) (r : Rack) : (setRack r s).scanPending = s.scanPending := rfl
@[simp] theorem setRack_rescan (s : State) (r : Rack) : (setRack r s).rescan = s.rescan := rfl
@[simp] theorem setRack_view (s : State) (r : Rack) : (setRack r s).view = s.view := rfl
@[simp] theorem setRack_inst (s : State) (r : Rack) : (setRack r s).inst = s.inst := rfl
@[simp] theorem setRack_arms (s : State) (r : Rack) : (setRack r s).arms = s.arms := rfl
@[simp] theorem setRack_zones (s : State) (r : Rack) : (setRack r s).zones = s.zones := rfl
@[simp] theorem setRack_zoneTie (s : State) (r : Rack) : (setRack r s).zoneTie = s.zoneTie := rfl
@[simp] theorem setRack_probes (s : State) (r : Rack) : (setRack r s).probes = s.probes := rfl
@[simp] theorem setRack_thermal (s : State) (r : Rack) : (setRack r s).thermal = s.thermal := rfl
@[simp] theorem setRack_maps (s : State) (r : Rack) : (setRack r s).maps = s.maps := rfl
@[simp] theorem setRack_draws (s : State) (r : Rack) : (setRack r s).draws = s.draws := rfl
@[simp] theorem setRack_out (s : State) (r : Rack) : (setRack r s).out = s.out := rfl
@[simp] theorem setRack_pending (s : State) (r : Rack) : (setRack r s).pending = s.pending := rfl

/-! ### Fields that an update replaces -/

@[simp] theorem setZones_zones (s : State) (z : List Zone) : (setZones z s).zones = z := rfl
@[simp] theorem setRack_rack (s : State) (r : Rack) : (setRack r s).rack = r := rfl
@[simp] theorem setCause_cause (s : State) (c : Cause) : (setCause c s).cause = s.cause ||| causeWord c := rfl
@[simp] theorem report_reports (s : State) (x : Section) : (report x s).reports = x :: s.reports := rfl
@[simp] theorem State.opened_out (s : State) : s.opened.out = [] := rfl
@[simp] theorem State.send_out (s : State) (o : LinkOut) : (s.send o).out = s.out ++ [o] := rfl
@[simp] theorem State.modThermal_thermal (s : State) (f : Thermal → Thermal) : (s.modThermal f).thermal = f s.thermal := rfl
@[simp] theorem State.write_mem (s : State) (a : Nat) (bs : List Byte) : (s.write a bs).mem = writeBytes s.mem a bs := rfl
@[simp] theorem State.tick_now (s : State) : s.tick.now = s.now + 1 := rfl
@[simp] theorem State.modProbe_probes (s : State) (p : Nat) (f : Probe → Probe) : (s.modProbe p f).probes = modifyAt f p s.probes := rfl
@[simp] theorem State.modPort_ports (s : State) (n : Nat) (f : Port → Port) : (s.modPort n f).rack.ports = modifyAt f n s.rack.ports := rfl
@[simp] theorem State.modPort_holder (s : State) (n : Nat) (f : Port → Port) : (s.modPort n f).rack.holder = s.rack.holder := rfl
@[simp] theorem State.modPort_waiter (s : State) (n : Nat) (f : Port → Port) : (s.modPort n f).rack.waiter = s.rack.waiter := rfl

/-! ### One arm's records -/

@[simp] theorem PerArm.get_set_same {α : Type} (p : PerArm α) (a : Arm) (v : α) : (p.set a v).get a = v := by cases a <;> rfl

@[simp] theorem PerArm.get_set_other {α : Type} (p : PerArm α) (a : Arm) (v : α) : (p.set a v).get a.other = p.get a.other := by
  cases a <;> rfl

@[simp] theorem Arm.other_other (a : Arm) : a.other.other = a := by cases a <;> rfl

@[simp] theorem Arm.other_ne (a : Arm) : a.other ≠ a := by cases a <;> decide

/-- An arm is the one given or the other. -/
theorem Arm.eq_or_other (a b : Arm) : b = a ∨ b = a.other := by cases a <;> cases b <;> simp [Arm.other]

@[simp] theorem State.setArm_arm_same (s : State) (a : Arm) (r : ArmRec) : (s.setArm a r).arm a = r := by cases a <;> rfl

@[simp] theorem State.setArm_arm_other (s : State) (a : Arm) (r : ArmRec) : (s.setArm a r).arm a.other = s.arm a.other := by
  cases a <;> rfl

@[simp] theorem State.setArm_arm_self (s : State) (a : Arm) : s.setArm a (s.arm a) = s := by cases a <;> rfl

theorem State.doing_eq (s : State) (a : Arm) : s.doing a = (s.arm a).mot.doing := rfl

theorem State.hasPlan_eq (s : State) (a : Arm) : s.hasPlan a = (s.arm a).exec.plan.isSome := rfl

theorem State.setDoing_eq (s : State) (a : Arm) (d : Doing) : s.setDoing a d = s.modMot a (fun m => { m with doing := d }) := rfl

theorem State.setArmState_eq (s : State) (a : Arm) (x : ArmState) : s.setArmState a x = s.modMot a (fun m => { m with state := x }) := rfl

theorem State.setResume_eq (s : State) (a : Arm) (r : Option ResumePoint) :
    s.setResume a r = s.modMot a (fun m => { m with resume := r }) := rfl

@[simp] theorem State.modMot_mot (s : State) (a : Arm) (f : Motion → Motion) : ((s.modMot a f).arm a).mot = f (s.arm a).mot := by
  cases a <;> rfl
@[simp] theorem State.modMot_arm_other (s : State) (a : Arm) (f : Motion → Motion) : (s.modMot a f).arm a.other = s.arm a.other := by
  cases a <;> rfl
@[simp] theorem State.modMot_arm_scale (s : State) (a b : Arm) (f : Motion → Motion) : ((s.modMot a f).arm b).scale = (s.arm b).scale := by
  cases a <;> cases b <;> rfl
@[simp] theorem State.modMot_arm_exec (s : State) (a b : Arm) (f : Motion → Motion) : ((s.modMot a f).arm b).exec = (s.arm b).exec := by
  cases a <;> cases b <;> rfl
@[simp] theorem State.modMot_arm_cap (s : State) (a b : Arm) (f : Motion → Motion) : ((s.modMot a f).arm b).cap = (s.arm b).cap := by
  cases a <;> cases b <;> rfl
@[simp] theorem State.modMot_arm_head (s : State) (a b : Arm) (f : Motion → Motion) : ((s.modMot a f).arm b).head = (s.arm b).head := by
  cases a <;> cases b <;> rfl
@[simp] theorem State.modMot_arm_wr (s : State) (a b : Arm) (f : Motion → Motion) : ((s.modMot a f).arm b).wr = (s.arm b).wr := by
  cases a <;> cases b <;> rfl
@[simp] theorem State.modMot_arm_change (s : State) (a b : Arm) (f : Motion → Motion) : ((s.modMot a f).arm b).change = (s.arm b).change := by
  cases a <;> cases b <;> rfl
@[simp] theorem State.modMot_arm_expected (s : State) (a b : Arm) (f : Motion → Motion) : ((s.modMot a f).arm b).expected = (s.arm b).expected := by
  cases a <;> cases b <;> rfl

@[simp] theorem State.modExec_exec (s : State) (a : Arm) (f : Executor → Executor) : ((s.modExec a f).arm a).exec = f (s.arm a).exec := by
  cases a <;> rfl
@[simp] theorem State.modExec_arm_other (s : State) (a : Arm) (f : Executor → Executor) : (s.modExec a f).arm a.other = s.arm a.other := by
  cases a <;> rfl
@[simp] theorem State.modExec_arm_scale (s : State) (a b : Arm) (f : Executor → Executor) : ((s.modExec a f).arm b).scale = (s.arm b).scale := by
  cases a <;> cases b <;> rfl
@[simp] theorem State.modExec_arm_mot (s : State) (a b : Arm) (f : Executor → Executor) : ((s.modExec a f).arm b).mot = (s.arm b).mot := by
  cases a <;> cases b <;> rfl
@[simp] theorem State.modExec_arm_cap (s : State) (a b : Arm) (f : Executor → Executor) : ((s.modExec a f).arm b).cap = (s.arm b).cap := by
  cases a <;> cases b <;> rfl
@[simp] theorem State.modExec_arm_head (s : State) (a b : Arm) (f : Executor → Executor) : ((s.modExec a f).arm b).head = (s.arm b).head := by
  cases a <;> cases b <;> rfl
@[simp] theorem State.modExec_arm_wr (s : State) (a b : Arm) (f : Executor → Executor) : ((s.modExec a f).arm b).wr = (s.arm b).wr := by
  cases a <;> cases b <;> rfl
@[simp] theorem State.modExec_arm_change (s : State) (a b : Arm) (f : Executor → Executor) : ((s.modExec a f).arm b).change = (s.arm b).change := by
  cases a <;> cases b <;> rfl
@[simp] theorem State.modExec_arm_expected (s : State) (a b : Arm) (f : Executor → Executor) : ((s.modExec a f).arm b).expected = (s.arm b).expected := by
  cases a <;> cases b <;> rfl

@[simp] theorem State.modCap_cap (s : State) (a : Arm) (f : Capture → Capture) : ((s.modCap a f).arm a).cap = f (s.arm a).cap := by
  cases a <;> rfl
@[simp] theorem State.modCap_arm_other (s : State) (a : Arm) (f : Capture → Capture) : (s.modCap a f).arm a.other = s.arm a.other := by
  cases a <;> rfl
@[simp] theorem State.modCap_arm_scale (s : State) (a b : Arm) (f : Capture → Capture) : ((s.modCap a f).arm b).scale = (s.arm b).scale := by
  cases a <;> cases b <;> rfl
@[simp] theorem State.modCap_arm_mot (s : State) (a b : Arm) (f : Capture → Capture) : ((s.modCap a f).arm b).mot = (s.arm b).mot := by
  cases a <;> cases b <;> rfl
@[simp] theorem State.modCap_arm_exec (s : State) (a b : Arm) (f : Capture → Capture) : ((s.modCap a f).arm b).exec = (s.arm b).exec := by
  cases a <;> cases b <;> rfl
@[simp] theorem State.modCap_arm_head (s : State) (a b : Arm) (f : Capture → Capture) : ((s.modCap a f).arm b).head = (s.arm b).head := by
  cases a <;> cases b <;> rfl
@[simp] theorem State.modCap_arm_wr (s : State) (a b : Arm) (f : Capture → Capture) : ((s.modCap a f).arm b).wr = (s.arm b).wr := by
  cases a <;> cases b <;> rfl
@[simp] theorem State.modCap_arm_change (s : State) (a b : Arm) (f : Capture → Capture) : ((s.modCap a f).arm b).change = (s.arm b).change := by
  cases a <;> cases b <;> rfl
@[simp] theorem State.modCap_arm_expected (s : State) (a b : Arm) (f : Capture → Capture) : ((s.modCap a f).arm b).expected = (s.arm b).expected := by
  cases a <;> cases b <;> rfl

@[simp] theorem State.modHead_head (s : State) (a : Arm) (f : Head → Head) : ((s.modHead a f).arm a).head = f (s.arm a).head := by
  cases a <;> rfl
@[simp] theorem State.modHead_arm_other (s : State) (a : Arm) (f : Head → Head) : (s.modHead a f).arm a.other = s.arm a.other := by
  cases a <;> rfl
@[simp] theorem State.modHead_arm_scale (s : State) (a b : Arm) (f : Head → Head) : ((s.modHead a f).arm b).scale = (s.arm b).scale := by
  cases a <;> cases b <;> rfl
@[simp] theorem State.modHead_arm_mot (s : State) (a b : Arm) (f : Head → Head) : ((s.modHead a f).arm b).mot = (s.arm b).mot := by
  cases a <;> cases b <;> rfl
@[simp] theorem State.modHead_arm_exec (s : State) (a b : Arm) (f : Head → Head) : ((s.modHead a f).arm b).exec = (s.arm b).exec := by
  cases a <;> cases b <;> rfl
@[simp] theorem State.modHead_arm_cap (s : State) (a b : Arm) (f : Head → Head) : ((s.modHead a f).arm b).cap = (s.arm b).cap := by
  cases a <;> cases b <;> rfl
@[simp] theorem State.modHead_arm_wr (s : State) (a b : Arm) (f : Head → Head) : ((s.modHead a f).arm b).wr = (s.arm b).wr := by
  cases a <;> cases b <;> rfl
@[simp] theorem State.modHead_arm_change (s : State) (a b : Arm) (f : Head → Head) : ((s.modHead a f).arm b).change = (s.arm b).change := by
  cases a <;> cases b <;> rfl
@[simp] theorem State.modHead_arm_expected (s : State) (a b : Arm) (f : Head → Head) : ((s.modHead a f).arm b).expected = (s.arm b).expected := by
  cases a <;> cases b <;> rfl

@[simp] theorem State.modWr_wr (s : State) (a : Arm) (f : Writer → Writer) : ((s.modWr a f).arm a).wr = f (s.arm a).wr := by
  cases a <;> rfl
@[simp] theorem State.modWr_arm_other (s : State) (a : Arm) (f : Writer → Writer) : (s.modWr a f).arm a.other = s.arm a.other := by
  cases a <;> rfl
@[simp] theorem State.modWr_arm_scale (s : State) (a b : Arm) (f : Writer → Writer) : ((s.modWr a f).arm b).scale = (s.arm b).scale := by
  cases a <;> cases b <;> rfl
@[simp] theorem State.modWr_arm_mot (s : State) (a b : Arm) (f : Writer → Writer) : ((s.modWr a f).arm b).mot = (s.arm b).mot := by
  cases a <;> cases b <;> rfl
@[simp] theorem State.modWr_arm_exec (s : State) (a b : Arm) (f : Writer → Writer) : ((s.modWr a f).arm b).exec = (s.arm b).exec := by
  cases a <;> cases b <;> rfl
@[simp] theorem State.modWr_arm_cap (s : State) (a b : Arm) (f : Writer → Writer) : ((s.modWr a f).arm b).cap = (s.arm b).cap := by
  cases a <;> cases b <;> rfl
@[simp] theorem State.modWr_arm_head (s : State) (a b : Arm) (f : Writer → Writer) : ((s.modWr a f).arm b).head = (s.arm b).head := by
  cases a <;> cases b <;> rfl
@[simp] theorem State.modWr_arm_change (s : State) (a b : Arm) (f : Writer → Writer) : ((s.modWr a f).arm b).change = (s.arm b).change := by
  cases a <;> cases b <;> rfl
@[simp] theorem State.modWr_arm_expected (s : State) (a b : Arm) (f : Writer → Writer) : ((s.modWr a f).arm b).expected = (s.arm b).expected := by
  cases a <;> cases b <;> rfl

@[simp] theorem State.modScale_scale (s : State) (a : Arm) (f : Scale → Scale) : ((s.modScale a f).arm a).scale = f (s.arm a).scale := by
  cases a <;> rfl
@[simp] theorem State.modScale_arm_other (s : State) (a : Arm) (f : Scale → Scale) : (s.modScale a f).arm a.other = s.arm a.other := by
  cases a <;> rfl
@[simp] theorem State.modScale_arm_mot (s : State) (a b : Arm) (f : Scale → Scale) : ((s.modScale a f).arm b).mot = (s.arm b).mot := by
  cases a <;> cases b <;> rfl
@[simp] theorem State.modScale_arm_exec (s : State) (a b : Arm) (f : Scale → Scale) : ((s.modScale a f).arm b).exec = (s.arm b).exec := by
  cases a <;> cases b <;> rfl
@[simp] theorem State.modScale_arm_cap (s : State) (a b : Arm) (f : Scale → Scale) : ((s.modScale a f).arm b).cap = (s.arm b).cap := by
  cases a <;> cases b <;> rfl
@[simp] theorem State.modScale_arm_head (s : State) (a b : Arm) (f : Scale → Scale) : ((s.modScale a f).arm b).head = (s.arm b).head := by
  cases a <;> cases b <;> rfl
@[simp] theorem State.modScale_arm_wr (s : State) (a b : Arm) (f : Scale → Scale) : ((s.modScale a f).arm b).wr = (s.arm b).wr := by
  cases a <;> cases b <;> rfl
@[simp] theorem State.modScale_arm_change (s : State) (a b : Arm) (f : Scale → Scale) : ((s.modScale a f).arm b).change = (s.arm b).change := by
  cases a <;> cases b <;> rfl
@[simp] theorem State.modScale_arm_expected (s : State) (a b : Arm) (f : Scale → Scale) : ((s.modScale a f).arm b).expected = (s.arm b).expected := by
  cases a <;> cases b <;> rfl

@[simp] theorem State.setChange_change (s : State) (a : Arm) (c : Option Change) : ((s.setChange a c).arm a).change = c := by
  cases a <;> rfl
@[simp] theorem State.setChange_arm_other (s : State) (a : Arm) (c : Option Change) : (s.setChange a c).arm a.other = s.arm a.other := by
  cases a <;> rfl
@[simp] theorem State.setChange_arm_scale (s : State) (a b : Arm) (c : Option Change) : ((s.setChange a c).arm b).scale = (s.arm b).scale := by
  cases a <;> cases b <;> rfl
@[simp] theorem State.setChange_arm_mot (s : State) (a b : Arm) (c : Option Change) : ((s.setChange a c).arm b).mot = (s.arm b).mot := by
  cases a <;> cases b <;> rfl
@[simp] theorem State.setChange_arm_exec (s : State) (a b : Arm) (c : Option Change) : ((s.setChange a c).arm b).exec = (s.arm b).exec := by
  cases a <;> cases b <;> rfl
@[simp] theorem State.setChange_arm_cap (s : State) (a b : Arm) (c : Option Change) : ((s.setChange a c).arm b).cap = (s.arm b).cap := by
  cases a <;> cases b <;> rfl
@[simp] theorem State.setChange_arm_head (s : State) (a b : Arm) (c : Option Change) : ((s.setChange a c).arm b).head = (s.arm b).head := by
  cases a <;> cases b <;> rfl
@[simp] theorem State.setChange_arm_wr (s : State) (a b : Arm) (c : Option Change) : ((s.setChange a c).arm b).wr = (s.arm b).wr := by
  cases a <;> cases b <;> rfl
@[simp] theorem State.setChange_arm_expected (s : State) (a b : Arm) (c : Option Change) : ((s.setChange a c).arm b).expected = (s.arm b).expected := by
  cases a <;> cases b <;> rfl

@[simp] theorem State.modThermal_arm (s : State) (f : Thermal → Thermal) (b : Arm) : (s.modThermal f).arm b = s.arm b := rfl
@[simp] theorem State.send_arm (s : State) (o : LinkOut) (b : Arm) : (s.send o).arm b = s.arm b := rfl
@[simp] theorem State.opened_arm (s : State) (b : Arm) : (s.opened).arm b = s.arm b := rfl
@[simp] theorem State.tick_arm (s : State) (b : Arm) : (s.tick).arm b = s.arm b := rfl
@[simp] theorem State.write_arm (s : State) (a : Nat) (bs : List Byte) (b : Arm) : (s.write a bs).arm b = s.arm b := rfl
@[simp] theorem State.setSection_arm (s : State) (x : Section) (v : SectionState) (b : Arm) : (s.setSection x v).arm b = s.arm b := rfl
@[simp] theorem State.modProbe_arm (s : State) (p : Nat) (f : Probe → Probe) (b : Arm) : (s.modProbe p f).arm b = s.arm b := rfl
@[simp] theorem State.modPort_arm (s : State) (n : Nat) (f : Port → Port) (b : Arm) : (s.modPort n f).arm b = s.arm b := rfl
@[simp] theorem setCause_arm (s : State) (c : Cause) (b : Arm) : (setCause c s).arm b = s.arm b := rfl
@[simp] theorem setZones_arm (s : State) (z : List Zone) (b : Arm) : (setZones z s).arm b = s.arm b := rfl
@[simp] theorem setRack_arm (s : State) (r : Rack) (b : Arm) : (setRack r s).arm b = s.arm b := rfl
@[simp] theorem report_arm (s : State) (x : Section) (b : Arm) : (report x s).arm b = s.arm b := rfl

end Sys2Proof.Machine
end

