-- ==== Sys2Proof/Laws/Status.lean ====
section
/-! SUPPORT. The laws of the status block: the length of every structure the part writes (chapter 11), and once for all what the end
of a command does to a state (R17, R18). -/

namespace Sys2Proof.Machine

/-! ### Lengths (chapter 11) -/

@[simp] theorem vec8_length (v : Vec3) : (vec8 v).length = 24 := by simp [vec8]

@[simp] theorem orientBytes_length (o : Option (Nat × Nat)) : (orientBytes o).length = 2 := by
  cases o <;> simp [orientBytes]

@[simp] theorem deviceSection_length (d : DeviceState) (r : StartResult) (e : Bool) (c : AreaCode) (o : BitVec 22) (n : Stamp) :
    (deviceSection d r e c o n).length = 20 := by simp [deviceSection]

@[simp] theorem armSection_length (r : ArmRec) : (armSection r).length = 48 := by simp [armSection]

@[simp] theorem zoneBytes_length (z : Zone) : (zoneBytes z).length = 64 := by simp [zoneBytes]

@[simp] theorem chanBytes_length (c : Chan) : (chanBytes c).length = 24 := by simp [chanBytes]

@[simp] theorem groupBytes_length (g : Group) : (groupBytes g).length = 16 := by simp [groupBytes]

@[simp] theorem orientEntryBytes_length (o : OrientEntry) : (orientEntryBytes o).length = 16 := by simp [orientEntryBytes]

@[simp] theorem descBytes_length (d : Option MapDesc) : (descBytes d).length = 16 := by cases d <;> simp [descBytes]

@[simp] theorem partBytes_length (p : PartSetting) : (partBytes p).length = 24 := by simp [partBytes]

@[simp] theorem outcomeBytes_length (o : PlanOutcome) (f : FaultCode) (i c : Nat) (k : PlanCounts) :
    (outcomeBytes o f i c k).length = 32 := by simp [outcomeBytes]

@[simp] theorem pageHeaderBytes_length (a : Arm) (p : Plan) : (pageHeaderBytes a p).length = 12 := by
  simp only [pageHeaderBytes, List.length_append, leBytes_length, zeros_length]

@[simp] theorem recordContent_length (r : RecordData) : (recordContent r).length = 28 := by
  unfold recordContent; split <;> simp

@[simp] theorem recordBytes_length (a : Arm) (p : Plan) (q : BitVec 32) (r : RecordData) : (recordBytes a p q r).length = 64 := by
  unfold recordBytes
  simp only [List.length_append]
  simp only [leBytes_length, leSigned_length, zeros_length, recordContent_length]

/-- The length of a list of structures of one width. -/
theorem flatMap_length {α : Type} {f : α → List Byte} {n : Nat} (l : List α) (h : ∀ x ∈ l, (f x).length = n) :
    (l.flatMap f).length = n * l.length := by
  induction l with
  | nil => simp
  | cons x t ih =>
    rw [List.flatMap_cons, List.length_append, h x (by simp), ih (fun y hy => h y (by simp [hy])), List.length_cons]
    ring

@[simp] theorem zonesSection_length (zs : List Zone) : (zonesSection zs).length = 64 * zs.length :=
  flatMap_length zs (fun _ _ => by simp)

@[simp] theorem rackSection_length (r : Rack) : (rackSection r).length = 4 + 4 * r.ports.length := by
  simp only [rackSection, List.length_append, leBytes_length, zeros_length]
  rw [flatMap_length (n := 4) r.ports (fun _ _ => by simp)]

@[simp] theorem thermalSection_length (t : Thermal) : (thermalSection t).length = 4 + 24 * t.shownChans.length := by
  simp only [thermalSection, List.length_append, leBytes_length]
  rw [flatMap_length (n := 24) t.shownChans (fun _ _ => by simp)]

@[simp] theorem temperaturesSection_length (p : Published) : (temperaturesSection p).length = 144 := by
  rw [temperaturesSection, flatMap_length (n := 16) _ (fun _ _ => by simp)]; rfl

theorem probeBytes_length {p : Probe} (h : p.orients.length ≤ 8) : (probeBytes p).length = 160 := by
  simp only [probeBytes, List.length_append, leBytes_length, leSigned_length, zeros_length]
  rw [flatMap_length (n := 16) p.orients (fun _ _ => by simp)]
  omega

theorem mirrorSection_length {ps : List Probe} (h : ∀ p ∈ ps, p.orients.length ≤ 8) : (mirrorSection ps).length = 160 * ps.length :=
  flatMap_length ps (fun p hp => probeBytes_length (h p hp))

@[simp] theorem mapsSection_length (m : MapStore) : (mapsSection m).length = 336 := by
  simp only [mapsSection, List.length_append, partBytes_length]
  rw [flatMap_length (n := 16) _ (fun _ _ => by simp)]
  simp [descList, Axes.toList]

/-- Every section ends within the sections' part of the status block (section 11.7). -/
theorem section_fits {s : State} (h : s.Shaped) (x : Section) : sectionBase x + 4 + (s.sectionContent x).length ≤ statusEnd := by
  cases x <;>
    simp [sectionBase, State.sectionContent, statusEnd, h.zones, h.ports, h.shownChans, h.probes, mirrorSection_length h.orients]

/-! ### Two states apart from the status block -/

@[refl] theorem ShownFrom.refl (s : State) : ShownFrom s s := ⟨rfl, fun _ _ => rfl⟩

theorem ShownFrom.trans {s t u : State} (h : ShownFrom s t) (k : ShownFrom t u) : ShownFrom s u :=
  ⟨k.state.trans h.state, fun a ha => (k.bytes a ha).trans (h.bytes a ha)⟩

/-- The shape of a state depends on nothing that a rewrite changes but the number of sections. -/
theorem Shaped_of_apart {s t : State} (h : s.Shaped) (e : t.apart = s.apart) (n : t.sections.length = 9) : t.Shaped := by
  have field : ∀ {β : Type} (g : State → β), g t.apart = g s.apart := fun g => congrArg g e
  have hz : t.zones = s.zones := field (·.zones)
  have hr : t.rack = s.rack := field (·.rack)
  have hh : t.thermal = s.thermal := field (·.thermal)
  have hp : t.probes = s.probes := field (·.probes)
  have hm : t.maps = s.maps := field (·.maps)
  have hv : t.view = s.view := field (·.view)
  have ha : t.arms = s.arms := field (·.arms)
  exact ⟨n, by rw [hz]; exact h.zones, by rw [hr]; exact h.ports, by rw [hh]; exact h.chans, by rw [hh]; exact h.shownChans,
    by rw [hp]; exact h.probes, by rw [hp]; exact h.orients, by rw [hm]; exact h.nodes, by rw [hv]; exact h.view,
    by rw [ha]; exact h.armA, by rw [ha]; exact h.armB⟩

/-! ### Rewrites (R17) -/

theorem setSection_length (s : State) (x : Section) (v : SectionState) : (s.setSection x v).sections.length = s.sections.length := by
  simp [State.setSection]

/-- Replacing one section's state by a sound one keeps all sound. -/
theorem setSection_sound {s : State} (h : s.SectionsSound) {x : Section} {v : SectionState} (hv : v.sound) :
    (s.setSection x v).SectionsSound := by
  intro y hy
  rcases List.mem_or_eq_of_mem_set hy with hy | rfl
  · exact h y hy
  · exact hv

/-- A section's state is one of the nine, or at rest at counter 0. -/
theorem sectionState_sound {s : State} (h : s.SectionsSound) (x : Section) : (s.sectionState x).sound := by
  unfold State.sectionState
  rw [List.getD_eq_getElem?_getD]
  cases e : s.sections[sectionIndex x]? with
  | none => simp [SectionState.sound, SectionState.rest]
  | some v => exact h v (List.mem_of_getElem? e)

/-- One more makes an even counter odd and an odd one even, also where it wraps (R17). -/
theorem parity_succ (c : BitVec 32) : (c + 1).toNat % 2 = 1 ↔ ¬ c.toNat % 2 = 1 := by
  have : (c + 1).toNat = (c.toNat + 1) % 2 ^ 32 := by simp [BitVec.toNat_add]
  have hc := c.isLt
  omega

/-- What a rewrite of the status block keeps: the state apart from it, its shape, the soundness of its sections, the canonical form. -/
structure Rewrites (s t : State) : Prop where
  shown : s.Shaped → ShownFrom s t
  shaped : s.Shaped → t.Shaped
  sound : s.SectionsSound → t.SectionsSound
  wf : memWf s.mem = true → memWf t.mem = true

theorem Rewrites.refl (s : State) : Rewrites s s := ⟨fun _ => .refl s, id, id, id⟩

theorem Rewrites.trans {s t u : State} (h : Rewrites s t) (k : Rewrites t u) : Rewrites s u :=
  ⟨fun x => (h.shown x).trans (k.shown (h.shaped x)), fun x => k.shaped (h.shaped x), fun x => k.sound (h.sound x),
    fun x => k.wf (h.wf x)⟩

theorem beginRewrite_rewrites {x : Section} {s : State} (hb : (s.sectionState x).busy = false) : Rewrites s (beginRewrite x s) := by
  have fits (h : s.Shaped) := section_fits h x
  refine ⟨fun h => ⟨rfl, fun a ha => ?_⟩, fun h => Shaped_of_apart h rfl (by simpa [beginRewrite, State.setSection] using h.sections),
    fun h => ?_, fun h => writeBytes_wf h _ _⟩
  · refine readByte_writeBytes_outside (.inr ?_)
    have := fits h
    simp only [List.length_append, leBytes_length]; omega
  · have hs := sectionState_sound h x
    refine setSection_sound (s := s) h ⟨?_, by simp⟩
    simp [SectionState.sound, hb] at hs
    simp only [parity_succ, iff_true]; omega

theorem noteChange_rewrites (x : Section) (s : State) : Rewrites s (noteChange s x) := by
  unfold noteChange
  split
  · rename_i hb
    refine ⟨fun h => ⟨rfl, fun _ _ => rfl⟩, fun h => Shaped_of_apart h rfl (by simpa [State.setSection] using h.sections),
      fun h => setSection_sound h ⟨(sectionState_sound h x).1, fun _ => hb⟩, id⟩
  · rename_i hb
    exact beginRewrite_rewrites (by simpa using hb)

theorem noteChanges_rewrites (l : List Section) (s : State) : Rewrites s (l.foldl noteChange s) := by
  induction l generalizing s with
  | nil => exact .refl s
  | cons x t ih => exact (noteChange_rewrites x s).trans (ih _)

/-- The end of every command, once: it rewrites sections of the status block, and changes nothing else. -/
theorem publish_rewrites (s t : State) : Rewrites t (publish s t) := by
  have h : Rewrites t { t with reports := [] } :=
    ⟨fun _ => ⟨rfl, fun _ _ => rfl⟩, fun h => Shaped_of_apart h rfl h.sections, id, id⟩
  exact h.trans (noteChanges_rewrites _ _)

theorem publish_shown {s t : State} (h : t.Shaped) : ShownFrom t (publish s t) := (publish_rewrites s t).shown h

theorem noteChange_reports (s : State) (x : Section) : (noteChange s x).reports = s.reports := by
  unfold noteChange; split <;> rfl

@[simp] theorem publish_reports (s t : State) : (publish s t).reports = [] := by
  have : ∀ (l : List Section) (u : State), (l.foldl noteChange u).reports = u.reports := by
    intro l
    induction l with
    | nil => intro u; rfl
    | cons x l ih => intro u; rw [List.foldl_cons, ih, noteChange_reports]
  rw [publish, this]

/-- A field that no rewrite touches is after a command what the command's own effect made it. -/
theorem publish_field {α : Type} (s t : State) (g : State → α) (h1 : ∀ u v, g { u with sections := v } = g u)
    (h2 : ∀ u v, g { u with mem := v } = g u) (h3 : ∀ u v, g { u with reports := v } = g u) : g (publish s t) = g t := by
  have step : ∀ u x, g (noteChange u x) = g u := by
    intro u x
    unfold noteChange
    split
    · exact h1 u _
    · exact (h2 (u.setSection x _) _).trans (h1 u _)
  have fold : ∀ (l : List Section) u, g (l.foldl noteChange u) = g u := by
    intro l
    induction l with
    | nil => intro u; rfl
    | cons x l ih => intro u; rw [List.foldl_cons, ih, step]
  rw [publish, fold]
  exact h3 t []

@[simp] theorem publish_arm (s t : State) (a : Arm) : (publish s t).arm a = t.arm a :=
  publish_field s t (fun u => u.arm a) (fun _ _ => rfl) (fun _ _ => rfl) (fun _ _ => rfl)

@[simp] theorem publish_pending (s t : State) : (publish s t).pending = t.pending :=
  publish_field s t (fun u => u.pending) (fun _ _ => rfl) (fun _ _ => rfl) (fun _ _ => rfl)

@[simp] theorem publish_rack (s t : State) : (publish s t).rack = t.rack :=
  publish_field s t (fun u => u.rack) (fun _ _ => rfl) (fun _ _ => rfl) (fun _ _ => rfl)

@[simp] theorem publish_zones (s t : State) : (publish s t).zones = t.zones :=
  publish_field s t (fun u => u.zones) (fun _ _ => rfl) (fun _ _ => rfl) (fun _ _ => rfl)

@[simp] theorem publish_cause (s t : State) : (publish s t).cause = t.cause :=
  publish_field s t (fun u => u.cause) (fun _ _ => rfl) (fun _ _ => rfl) (fun _ _ => rfl)

@[simp] theorem publish_thermal (s t : State) : (publish s t).thermal = t.thermal :=
  publish_field s t (fun u => u.thermal) (fun _ _ => rfl) (fun _ _ => rfl) (fun _ _ => rfl)

end Sys2Proof.Machine
end

