-- ==== Sys2Proof/Laws/Work.lean ====
section
/-! SUPPORT. What the blocks' shared operations can touch, once for all: `Work s t` says that the step from `s` to `t` leaves the
exchange port's registers, the clock, the sections' counters, the constants, the thermal monitor, the maps and the queue alone, clears
no cause, keeps the state's shape and the canonical form of the memory, and writes only bytes that the part may write (R1). One lemma per operation. -/

namespace Sys2Proof.Machine

/-- The fields that no arm's work touches. -/
def State.still (s : State) :=
  (s.device, s.startResult, s.resetting, s.mask, s.estop, s.now, s.sections, s.scanning, s.scanPending, s.rescan, s.inst,
    s.thermal, s.maps, s.pending)

/-- The step from `s` to `t` is an arm's work. -/
structure Work (s t : State) : Prop where
  still : t.still = s.still
  shaped : t.Shaped
  wf : memWf s.mem = true → memWf t.mem = true
  bytes : ∀ a, partMayWrite a = false → readByte t.mem a = readByte s.mem a
  causes : s.cause &&& t.cause = s.cause

variable {s t u : State} {a : Arm}

theorem Work.refl (h : s.Shaped) : Work s s := ⟨rfl, h, id, fun _ _ => rfl, BitVec.and_self⟩

/-- A cause set stays set over two steps that clear none. -/
theorem causes_trans {x y z : BitVec 10} (h : x &&& y = x) (k : y &&& z = y) : x &&& z = x := by
  rw [← h, BitVec.and_assoc, k]

/-- Work after work is work. -/
theorem Work.then (h : Work s t) (k : t.Shaped → Work t u) : Work s u :=
  have k := k h.shaped
  ⟨k.still.trans h.still, k.shaped, fun x => k.wf (h.wf x), fun a ha => (k.bytes a ha).trans (h.bytes a ha),
    causes_trans h.causes k.causes⟩

/-- A step that is work in each of two cases. -/
theorem Work.ite {c : Prop} [Decidable c] (h : c → Work s t) (k : ¬ c → Work s u) : Work s (if c then t else u) := by
  split <;> rename_i hc
  · exact h hc
  · exact k hc

/-- A fold of steps that are work is work. -/
theorem Work.foldl {β : Type} {f : State → β → State} (l : List β) (h : s.Shaped) (k : ∀ x ∈ l, ∀ t : State, t.Shaped → Work t (f t x)) :
    Work s (l.foldl f s) := by
  induction l generalizing s with
  | nil => exact .refl h
  | cons x l ih =>
    have w := k x (by simp) s h
    exact w.then fun h => ih h (fun y hy => k y (by simp [hy]))

/-! ### One arm's records -/

theorem State.Shaped.arm (h : s.Shaped) (a : Arm) : (s.arm a).shaped := by cases a <;> [exact h.armA; exact h.armB]

theorem Work.setArm {r : ArmRec} (h : s.Shaped) (hr : r.shaped) : Work s (s.setArm a r) := by
  refine ⟨rfl, ?_, id, fun _ _ => rfl, BitVec.and_self⟩
  cases a
  · exact ⟨h.sections, h.zones, h.ports, h.chans, h.shownChans, h.probes, h.orients, h.nodes, h.view, hr, h.armB⟩
  · exact ⟨h.sections, h.zones, h.ports, h.chans, h.shownChans, h.probes, h.orients, h.nodes, h.view, h.armA, hr⟩

theorem Work.modMot {f : Motion → Motion} (h : s.Shaped) : Work s (s.modMot a f) := .setArm h (h.arm a)

theorem Work.modCap {f : Capture → Capture} (h : s.Shaped) : Work s (s.modCap a f) := .setArm h (h.arm a)

theorem Work.modHead {f : Head → Head} (h : s.Shaped) : Work s (s.modHead a f) := .setArm h (h.arm a)

theorem Work.modScale {f : Scale → Scale} (h : s.Shaped) : Work s (s.modScale a f) := .setArm h (h.arm a)

theorem Work.setChange {c : Option Change} (h : s.Shaped) : Work s (s.setChange a c) := .setArm h (h.arm a)

theorem Work.modExec {f : Executor → Executor} (h : s.Shaped) (hf : (s.arm a).exec.shaped → (f (s.arm a).exec).shaped) :
    Work s (s.modExec a f) := .setArm h ⟨hf (h.arm a).1, (h.arm a).2⟩

theorem Work.modWr {f : Writer → Writer} (h : s.Shaped) (hf : (s.arm a).wr.shaped → (f (s.arm a).wr).shaped) :
    Work s (s.modWr a f) := .setArm h ⟨(h.arm a).1, hf (h.arm a).2⟩

theorem Work.setDoing {d : Doing} (h : s.Shaped) : Work s (s.setDoing a d) := .modMot h

theorem Work.setArmState {x : ArmState} (h : s.Shaped) : Work s (s.setArmState a x) := .modMot h

theorem Work.setResume {r : Option ResumePoint} (h : s.Shaped) : Work s (s.setResume a r) := .modMot h

theorem Work.restAt {r : ResumePoint} (h : s.Shaped) : Work s (s.restAt a r) := .modMot h

/-! ### Registers, links, tables -/

/-- A state that differs only in the registers, tables and counters that work may change, with the tables' sizes kept. -/
theorem Work.of_eq (h : s.Shaped) (e : t.still = s.still) (m : t.mem = s.mem) (r : t.arms = s.arms) (z : t.zones.length = 8)
    (p : t.rack.ports.length = 16) (b : t.probes.length = 32) (o : ∀ p ∈ t.probes, p.orients.length ≤ 8)
    (v : ∀ p ∈ t.view, p < pageCount) (c : s.cause &&& t.cause = s.cause := by exact BitVec.and_self) : Work s t := by
  simp only [State.still, Prod.mk.injEq] at e
  obtain ⟨-, -, -, -, -, -, e7, -, -, -, -, e13, e14, -⟩ := id e
  refine ⟨by simp only [State.still, Prod.mk.injEq]; exact e, ?_, fun x => by rw [m]; exact x, fun a _ => by rw [m], c⟩
  exact ⟨by rw [e7]; exact h.sections, z, p, by rw [e13]; exact h.chans, by rw [e13]; exact h.shownChans, b, o,
    by rw [e14]; exact h.nodes, v, by rw [r]; exact h.armA, by rw [r]; exact h.armB⟩

theorem and_or_absorb (x y : BitVec 10) : x &&& (x ||| y) = x := by
  ext i hi
  simp only [BitVec.getElem_and, BitVec.getElem_or]
  cases x[i] <;> rfl

theorem setCause_work {c : Cause} (h : s.Shaped) : Work s (setCause c s) :=
  .of_eq h rfl rfl rfl h.zones h.ports h.probes h.orients h.view (and_or_absorb _ _)

theorem send_work {o : LinkOut} (h : s.Shaped) : Work s (s.send o) :=
  .of_eq h rfl rfl rfl h.zones h.ports h.probes h.orients h.view

theorem opened_work (h : s.Shaped) : Work s s.opened :=
  .of_eq h rfl rfl rfl h.zones h.ports h.probes h.orients h.view

/-- A rewrite of a section asked for. -/
theorem report_work {x : Section} (h : s.Shaped) : Work s (report x s) :=
  .of_eq h rfl rfl rfl h.zones h.ports h.probes h.orients h.view

theorem reportArea_work {c : AreaCode} {o : Nat} (h : s.Shaped) : Work s (reportArea c o s) := by
  unfold reportArea
  split
  · exact .refl h
  · exact (Work.of_eq (t := { s with areaCode := c, areaOffset := BitVec.ofNat 22 o }) h rfl rfl rfl h.zones h.ports h.probes h.orients
      h.view).then fun h => (setCause_work h).then fun h => report_work h

/-- The zone table replaced by one of eight zones. -/
theorem Work.withZones {z : List Zone} (h : s.Shaped) (n : z.length = 8) : Work s { s with zones := z } :=
  .of_eq h rfl rfl rfl n h.ports h.probes h.orients h.view

/-- The rack record replaced by one of sixteen ports. -/
theorem Work.withRack {r : Rack} (h : s.Shaped) (n : r.ports.length = 16) : Work s { s with rack := r } :=
  .of_eq h rfl rfl rfl h.zones n h.probes h.orients h.view

/-- The zone table replaced by one of eight zones, its section rewritten if it changed (R76). -/
theorem setZones_work {z : List Zone} (h : s.Shaped) (n : z.length = 8) : Work s (setZones z s) :=
  .of_eq h rfl rfl rfl n h.ports h.probes h.orients h.view

/-- The rack record replaced by one of sixteen ports, its section rewritten if what it shows changed (R102). -/
theorem setRack_work {r : Rack} (h : s.Shaped) (n : r.ports.length = 16) : Work s (setRack r s) :=
  .of_eq h rfl rfl rfl h.zones n h.probes h.orients h.view

theorem Work.withTie {x : Arm} (h : s.Shaped) : Work s { s with zoneTie := x } :=
  .of_eq h rfl rfl rfl h.zones h.ports h.probes h.orients h.view

theorem Work.withDraws {n : Nat} (h : s.Shaped) : Work s { s with draws := n } :=
  .of_eq h rfl rfl rfl h.zones h.ports h.probes h.orients h.view

theorem Work.withView {v : List Nat} (h : s.Shaped) (n : ∀ p ∈ v, p < pageCount) : Work s { s with view := v } :=
  .of_eq h rfl rfl rfl h.zones h.ports h.probes h.orients n

theorem countIgnored_work {n : Nat} (h : s.Shaped) : Work s (countIgnored n s) :=
  .of_eq h rfl rfl rfl h.zones h.ports h.probes h.orients h.view

/-! ### Lists by index -/

@[simp] theorem mapIndexed_length {α β : Type} (f : Nat → α → β) (n : Nat) (l : List α) : (mapIndexed f n l).length = l.length := by
  induction l generalizing n with
  | nil => rfl
  | cons x t ih => simp [mapIndexed, ih]

@[simp] theorem modifyAt_length {α : Type} (f : α → α) (n : Nat) (l : List α) : (modifyAt f n l).length = l.length := by
  induction l generalizing n with
  | nil => cases n <;> rfl
  | cons x t ih => cases n <;> simp [modifyAt, ih]

/-- An element of a list changed at one place is an old element or the change of one. -/
theorem mem_modifyAt {α : Type} {f : α → α} {n : Nat} {l : List α} {x : α} (h : x ∈ modifyAt f n l) : x ∈ l ∨ ∃ y ∈ l, x = f y := by
  induction l generalizing n with
  | nil => simp [modifyAt] at h
  | cons z t ih =>
    cases n with
    | zero =>
      rcases List.mem_cons.1 h with rfl | h
      · exact .inr ⟨z, by simp, rfl⟩
      · exact .inl (by simp [h])
    | succ n =>
      rcases List.mem_cons.1 h with rfl | h
      · exact .inl (by simp)
      · rcases ih h with h | ⟨y, hy, e⟩
        · exact .inl (by simp [h])
        · exact .inr ⟨y, by simp [hy], e⟩

/-! ### The exchange memory -/

/-- A write of bytes that the part may write. -/
theorem write_work {b : Nat} {bs : List Byte} (h : s.Shaped) (hw : ∀ x, b ≤ x → x < b + bs.length → partMayWrite x = true) :
    Work s (s.write b bs) := by
  refine ⟨rfl, Shaped_of_mem h, fun x => writeBytes_wf x _ _, fun x hx => readByte_writeBytes_outside ?_, BitVec.and_self⟩
  by_contra hc
  have := hw x (by omega) (by omega)
  rw [hx] at this
  exact absurd this (by decide)
where
  Shaped_of_mem {s : State} {m : Mem} (h : s.Shaped) : State.Shaped { s with mem := m } :=
    ⟨h.sections, h.zones, h.ports, h.chans, h.shownChans, h.probes, h.orients, h.nodes, h.view, h.armA, h.armB⟩

/-- Every byte of a result page is the part's to write. -/
theorem page_mayWrite {p x : Nat} (hp : p < pageCount) (h1 : pageBase p ≤ x) (h2 : x < pageBase p + 0x1000) : partMayWrite x = true := by
  unfold pageBase pageCount at *
  simp only [partMayWrite, Bool.or_eq_true, Bool.and_eq_true, decide_eq_true_eq]
  omega

/-- A slot's tag is the part's to write. -/
theorem slotTag_mayWrite {n x : Nat} (hn : n < slotCount) (h1 : slotBase n ≤ x) (h2 : x < slotBase n + 4) : partMayWrite x = true := by
  unfold slotBase slotCount at *
  simp only [partMayWrite, Bool.or_eq_true, Bool.and_eq_true, decide_eq_true_eq]
  omega

/-- A slot's outcome area is the part's to write. -/
theorem slotOutcome_mayWrite {n x : Nat} (hn : n < slotCount) (h1 : slotBase n + 32 ≤ x) (h2 : x < slotBase n + 64) :
    partMayWrite x = true := by
  unfold slotBase slotCount at *
  simp only [partMayWrite, Bool.or_eq_true, Bool.and_eq_true, decide_eq_true_eq]
  omega

/-- A tag word of the part's: of a slot or of a page. -/
def TagPlace (b : Nat) : Prop := (∃ n < slotCount, b = slotBase n) ∨ ∃ p < pageCount, b = pageBase p

theorem TagPlace.slot {n : Nat} (h : n < slotCount) : TagPlace (slotBase n) := .inl ⟨n, h, rfl⟩

theorem TagPlace.page {p : Nat} (h : p < pageCount) : TagPlace (pageBase p) := .inr ⟨p, h, rfl⟩

/-- A conditional tag write, once: the tag word is replaced where it holds the expected value, and an area error is reported where
not (R3). -/
theorem condTag_work {b e n : Nat} (h : s.Shaped) (hb : TagPlace b) : Work s (condTag b e n s) := by
  unfold condTag
  refine .ite (fun _ => ?_) (fun _ => reportArea_work h)
  refine write_work (b := b) (bs := leBytes 4 n) h (fun x h1 h2 => ?_)
  rw [leBytes_length] at h2
  rcases hb with ⟨k, hk, rfl⟩ | ⟨p, hp, rfl⟩
  · exact slotTag_mayWrite hk h1 h2
  · exact page_mayWrite hp h1 (by omega)

/-! ### The result writer -/

theorem returnPage_work {p : Nat} (h : s.Shaped) (hp : p < pageCount) : Work s (returnPage p s) := by
  have w : Work s (condTag (pageBase p) tagFilling tagGiven s) := condTag_work h (.page hp)
  unfold returnPage
  refine .ite (fun _ => w.then fun h => .withView h (fun q hq => ?_)) (fun _ => w)
  have mem : ∀ l : List Nat, q ∈ insertPage p l → q = p ∨ q ∈ l := by
    intro l
    induction l with
    | nil => simp [insertPage]
    | cons x l ih =>
      rw [insertPage]
      split
      · simp
      · split
        · intro hq; exact .inr hq
        · intro hq
          rcases List.mem_cons.1 hq with rfl | hq
          · simp
          · rcases ih hq with hq | hq <;> simp [hq]
  rcases mem _ hq with rfl | hq
  · exact hp
  · exact h.view q hq

theorem returnPages_work {l : List Nat} (h : s.Shaped) (hl : ∀ p ∈ l, p < pageCount) : Work s (l.foldl (fun s p => returnPage p s) s) :=
  .foldl l h (fun p hp _ h => returnPage_work h (hl p hp))

theorem tagPages_work (l : List Nat) (k : Nat) (h : s.Shaped) (hl : ∀ p ∈ l, p < pageCount) :
    Work s (tagPages l k s).2 ∧ ∀ p ∈ (tagPages l k s).1, p < pageCount := by
  induction l generalizing s k with
  | nil => cases k <;> exact ⟨.refl h, by simp [tagPages]⟩
  | cons p l ih =>
    cases k with
    | zero => exact ⟨.refl h, by simp [tagPages]⟩
    | succ k =>
      have hp := hl p (by simp)
      have w : Work s (condTag (pageBase p) tagGiven tagFilling { s with view := s.view.filter (fun q => q ≠ p) }) :=
        (Work.withView h (fun q hq => h.view q (List.mem_filter.1 hq).1)).then fun h => condTag_work h (.page hp)
      have hl' : ∀ q ∈ l, q < pageCount := fun q hq => hl q (by simp [hq])
      rw [tagPages]
      split
      · have i := ih k w.shaped hl'
        refine ⟨w.then fun _ => i.1, fun q hq => ?_⟩
        rcases List.mem_cons.1 hq with rfl | hq
        · exact hp
        · exact i.2 q hq
      · have i := ih (k + 1) w.shaped hl'
        exact ⟨w.then fun _ => i.1, i.2⟩

theorem setLink_work {p : Nat} {n : Option Nat} (h : s.Shaped) (hp : p < pageCount) : Work s (setLink p n s) :=
  write_work h (fun x h1 h2 => page_mayWrite hp (by omega) (by rw [leBytes_length] at h2; omega))

theorem writeHeader_work {p : Nat} {plan : Plan} (h : s.Shaped) (hp : p < pageCount) : Work s (writeHeader a plan p s) :=
  (write_work h (fun x h1 h2 => page_mayWrite hp (by omega) (by rw [pageHeaderBytes_length] at h2; omega))).then fun h =>
    write_work h (fun x h1 h2 => page_mayWrite hp (by omega) (by rw [zeros_length] at h2; omega))

theorem linkPages_work {l : List Nat} (h : s.Shaped) (hl : ∀ p ∈ l, p < pageCount) : Work s (linkPages l s) := by
  induction l generalizing s with
  | nil => exact .refl h
  | cons p l ih =>
    cases l with
    | nil => exact .refl h
    | cons q l =>
      rw [linkPages]
      exact (setLink_work h (hl p (by simp))).then fun h => ih h (fun x hx => hl x (by simp [hx]))

theorem addPages_work {plan : Plan} {l : List Nat} (h : s.Shaped) (hl : ∀ p ∈ l, p < pageCount) : Work s (addPages a plan l s) := by
  have hc : ∀ c ∈ (s.arm a).wr.chain, c.page < pageCount := (h.arm a).2.1
  unfold addPages
  refine ((Work.foldl l h (fun p hp _ h => writeHeader_work h (hl p hp))).then fun h => linkPages_work h ?_).then fun h => .modWr h ?_
  · split
    · rename_i q hq
      rw [Option.map_eq_some_iff] at hq
      obtain ⟨c, hc', rfl⟩ := hq
      intro x hx
      rcases List.mem_cons.1 hx with rfl | hx
      · exact hc c (List.mem_of_getLast? hc')
      · exact hl x hx
    · exact hl
  · intro w
    refine ⟨fun c hc => ?_, w.2⟩
    rcases List.mem_append.1 hc with hc | hc
    · exact w.1 c hc
    · obtain ⟨p, hp, rfl⟩ := List.mem_map.1 hc
      exact hl p hp

/-- A room request, once: whatever it answers, it is work (R172). -/
theorem judgeRoom_work {plan : Plan} {n : Nat} (h : s.Shaped) : Work s (judgeRoom a plan n s).2 := by
  unfold judgeRoom
  split
  · dsimp only
    exact .modWr h (fun w => w)
  · dsimp only
    split
    · exact .refl h
    · have i := tagPages_work s.view (pagesNeeded (s.arm a).wr n) h h.view
      split
      · dsimp only
        exact (i.1.then fun h => addPages_work h i.2).then fun h => .modWr h (fun w => w)
      · exact i.1.then fun h => returnPages_work h i.2

theorem considerWaiting_work (h : s.Shaped) : Work s (considerWaiting a s) := by
  unfold considerWaiting
  split
  · dsimp only
    split
    · exact ((judgeRoom_work h).then fun h => Work.modWr h (fun w => w)).then fun h => .modMot h
    · exact judgeRoom_work h
  · exact .refl h

theorem reconsiderRoom_work (h : s.Shaped) : Work s (reconsiderRoom s) := by
  have both (x y : Arm) {s : State} (h : s.Shaped) : Work s (considerWaiting x (considerWaiting y s)) :=
    (considerWaiting_work h).then fun h => considerWaiting_work h
  unfold reconsiderRoom
  split
  · refine .ite (fun _ => both _ _ h) (fun _ => .ite (fun _ => both _ _ h) (fun _ => ?_))
    have w : Work s (drawFirst s).2 := .withDraws h
    exact .ite (fun _ => w.then fun h => both _ _ h) (fun _ => w.then fun h => both _ _ h)
  · exact considerWaiting_work h
  · exact considerWaiting_work h
  · exact .refl h

theorem dropRequest_work (h : s.Shaped) : Work s (dropRequest a s) := .modWr h (fun w => w)

theorem closePage_work {p : Nat} (h : s.Shaped) (hp : p < pageCount) : Work s (closePage a p s) := by
  have w : Work s ((condTag (pageBase p) tagFilling tagFilled s).modWr a (fun w => { w with chain := w.chain.filter (fun c => c.page ≠ p) })) :=
    (condTag_work h (.page hp)).then fun h => .modWr h (fun w => ⟨fun c hc => w.1 c (List.mem_filter.1 hc).1, w.2⟩)
  unfold closePage
  exact .ite (fun _ => w.then fun h => setCause_work h) (fun _ => w)

theorem returnEmpties_work (h : s.Shaped) : Work s (returnEmpties a s) := by
  have hc : ∀ c ∈ (s.arm a).wr.chain, c.page < pageCount := (h.arm a).2.1
  have hk : Work s (unlinkKept a s) := by
    unfold unlinkKept
    split
    · exact .ite (fun _ => setLink_work h ((h.arm a).2.2 _ (by assumption))) (fun _ => .refl h)
    · exact .refl h
  unfold returnEmpties
  split
  · exact .refl h
  · rename_i pages _
    refine ((hk.then fun h => Work.modWr h ?_).then fun h => returnPages_work h ?_).then fun h => reconsiderRoom_work h
    · exact fun w => ⟨fun c hc => w.1 c (List.mem_filter.1 hc).1, w.2⟩
    · intro p hp
      obtain ⟨c, hc', rfl⟩ := List.mem_map.1 hp
      exact hc c (List.mem_filter.1 hc').1

theorem releaseGrant_work (h : s.Shaped) : Work s (releaseGrant a s) := (Work.modWr h (fun w => w)).then fun h => returnEmpties_work h

theorem closeChain_work (h : s.Shaped) : Work s (closeChain a s) := by
  have hc : ∀ c ∈ (s.arm a).wr.chain, c.page < pageCount := (h.arm a).2.1
  unfold closeChain
  refine (((Work.modWr (a := a) (f := fun w => { w with grant := none, waiting := none }) h (fun w => w)).then fun h => Work.foldl _ h ?_).then
    fun h => returnEmpties_work h).then fun h => .modWr h (fun w => ⟨w.1, by simp⟩)
  intro c hx t ht
  have hp : c.page < pageCount := by
    rw [State.modWr_wr] at hx
    exact hc c (List.mem_filter.1 hx).1
  exact (setLink_work ht hp).then fun h => closePage_work h hp

/-- A record placed, once (R174). -/
theorem placeRecord_work {r : RecordData} (h : s.Shaped) : Work s (placeRecord a r s) := by
  unfold placeRecord
  split
  · rename_i plan c _ hf
    have hp : c.page < pageCount := (h.arm a).2.1 c (List.mem_of_find?_eq_some hf)
    have hn : c.count < pageRecords := by simpa using List.find?_some hf
    unfold pageRecords at hn
    have w1 : Work s (s.write (pageBase c.page + 64 + 64 * c.count) (recordBytes a plan (s.arm a).wr.recSeq r)) :=
      write_work h (fun x h1 h2 => page_mayWrite hp (by omega) (by rw [recordBytes_length] at h2; omega))
    have w2 {u : State} (h : u.Shaped) : Work u (if c.count = 0 then u.write (pageBase c.page + 16) (leBytes 4 (s.arm a).wr.recSeq.toNat) else u) :=
      .ite (fun _ => write_work h (fun x h1 h2 => page_mayWrite hp (by omega) (by rw [leBytes_length] at h2; omega))) (fun _ => .refl h)
    have w3 {u : State} (h : u.Shaped) : Work u (u.write (pageBase c.page + 10) (leBytes 2 (c.count + 1))) :=
      write_work h (fun x h1 h2 => page_mayWrite hp (by omega) (by rw [leBytes_length] at h2; omega))
    have w := ((w1.then w2).then w3).then fun h => Work.modWr (a := a) (f := fun w =>
      { w with
        grant := w.grant.map (fun n => n - 1)
        recSeq := w.recSeq + 1
        counts := countRecord r c.page w.counts
        lastKept := some c.page
        chain := w.chain.map (fun q => if q.page = c.page then { q with count := q.count + 1 } else q) }) h (fun w => by
          refine ⟨fun q hq => ?_, by rintro p ⟨⟩; exact hp⟩
          obtain ⟨q', hq', rfl⟩ := List.mem_map.1 hq
          split <;> exact w.1 q' hq')
    exact .ite (fun _ => w.then fun h => closePage_work h hp) (fun _ => w)
  · exact .refl h

theorem addDropped_work {n : Nat} (h : s.Shaped) : Work s (addDropped a n s) := .modWr h (fun w => w)

/-- An outcome written, once (R45). -/
theorem writeOutcome_work {n e i k : Nat} {o : PlanOutcome} {f : FaultCode} {c : PlanCounts} (h : s.Shaped) (hn : n < slotCount) :
    Work s (writeOutcome n e o f i k c s) := by
  have w : Work s (condTag (slotBase n) e tagDone (s.write (slotBase n + 32) (outcomeBytes o f i k c))) :=
    (write_work h (fun x h1 h2 => slotOutcome_mayWrite hn h1 (by rw [outcomeBytes_length] at h2; omega))).then fun h =>
      condTag_work h (.slot hn)
  unfold writeOutcome
  exact .ite (fun _ => w.then fun h => setCause_work h) (fun _ => w)

/-! ### The zone arbiter -/

theorem claimOrWait_work {r : SegReq} (h : s.Shaped) : Work s (claimOrWait a r s) := by
  unfold claimOrWait
  refine .ite (fun _ => (setZones_work h (by simp [grantZones, h.zones])).then fun h => .setDoing h) (fun _ => ?_)
  refine ((setZones_work h ?_).then fun h => Work.modMot h).then fun h => setCause_work h
  split <;> simp [setWaiter, h.zones]

theorem reevaluate_work (h : s.Shaped) : Work s (reevaluate a s) := by
  unfold reevaluate
  split
  · refine .ite (fun _ => (setZones_work h (by simp [grantZones, clearWaiter, h.zones])).then fun h => .modMot h) (fun _ => ?_)
    split
    · exact (setZones_work h (by simp [setWaiter, clearWaiter, h.zones])).then fun h => .setDoing h
    · exact .refl h
  · exact .refl h

theorem releaseByEnvelope_work (h : s.Shaped) : Work s (releaseByEnvelope a s) := by
  unfold releaseByEnvelope
  refine .ite (fun _ => .ite (fun _ => ?_) (fun _ => .refl h)) (fun _ => .refl h)
  exact (setZones_work h (by simp [h.zones])).then fun h => reevaluate_work h

theorem endZoneWait_work (h : s.Shaped) : Work s (endZoneWait a s) := setZones_work h (by simp [clearWaiter, h.zones])

/-! ### The probe table -/

theorem supplyOn_work (h : s.Shaped) : Work s (supplyOn a s) := (Work.modHead h).then fun h => send_work h

theorem supplyOff_work (h : s.Shaped) : Work s (supplyOff a s) := by
  unfold supplyOff
  exact .ite (fun _ => (Work.modHead h).then fun h => send_work h) (fun _ => .refl h)

theorem openShadow_work {n : Nat} (h : s.Shaped) : Work s (openShadow a n s) := by
  unfold openShadow; dsimp only; exact .modHead h

theorem clearContext_work (h : s.Shaped) : Work s (clearContext a s) := .modHead h

theorem unpower_work (h : s.Shaped) : Work s (unpower a s) := .modHead h

theorem mountFails_work (h : s.Shaped) : Work s (mountFails a s) := by
  unfold mountFails
  dsimp only
  split
  · exact (supplyOff_work h).then fun h => unpower_work h
  · exact (supplyOff_work h).then fun h => clearContext_work h

theorem mount_work {p : Nat} (h : s.Shaped) : Work s (mount a p s) := (Work.modHead h).then fun h => openShadow_work h

theorem mountNull_work (h : s.Shaped) : Work s (mountNull a s) := .modHead h

theorem refresh_work (h : s.Shaped) : Work s (refresh a s) := by
  unfold refresh
  split
  · exact .ite (fun _ => .modHead h) (fun _ => .refl h)
  · exact clearContext_work h

theorem selectOrient_work (h : s.Shaped) : Work s (selectOrient a s) := .modHead h

theorem setOccupancy_work {o : Occupancy} (h : s.Shaped) : Work s (setOccupancy a o s) := .modHead h

/-- One entry of the probe table changed, its list kept within 8 entries. -/
theorem modProbe_work {p : Nat} {f : Probe → Probe} (h : s.Shaped) (hf : ∀ e ∈ s.probes, (f e).orients.length ≤ 8) :
    Work s (s.modProbe p f) := by
  refine .of_eq h rfl rfl rfl h.zones h.ports (by simp [h.probes]) (fun e he => ?_) h.view
  rcases mem_modifyAt he with he | ⟨y, hy, rfl⟩
  · exact h.orients e he
  · exact hf y hy

theorem modPort_work {n : Nat} {f : Port → Port} (h : s.Shaped) : Work s (s.modPort n f) := .withRack h (by simp [h.ports])

theorem moveProbe_work {p : Nat} {l : Location} (h : s.Shaped) : Work s (moveProbe p l s) := by
  have w : Work s (s.modProbe p (fun e => { e with location := l })) := modProbe_work h h.orients
  unfold moveProbe
  refine w.then fun h' => .of_eq h' rfl rfl rfl h'.zones ?_ h'.probes h'.orients h'.view
  dsimp only
  split <;> simp [h.ports]

theorem forgetProbe_work {p : Nat} (h : s.Shaped) : Work s (forgetProbe a p s) := by
  unfold forgetProbe
  refine .ite (fun _ => ?_) (fun _ => .refl h)
  exact ((setOccupancy_work h).then fun h => supplyOff_work h).then fun h => clearContext_work h

theorem declareUnknown_work {p : Nat} (h : s.Shaped) : Work s (declareUnknown a p s) :=
  (moveProbe_work h).then fun h => forgetProbe_work h

/-! ### Rest, rack, abandoning, faults -/

theorem drivesOff_work (h : s.Shaped) : Work s (drivesOff a s) := .modMot h

theorem stopSampling_work (h : s.Shaped) : Work s (stopSampling a s) := .modCap h

theorem enterIdle_work (h : s.Shaped) : Work s (enterIdle a s) := by
  unfold enterIdle; dsimp only; exact .modMot h

theorem withdrawStandby_work (h : s.Shaped) : Work s (withdrawStandby a s) := by
  unfold withdrawStandby
  exact .ite (fun _ => (Work.modMot h).then fun h => send_work h) (fun _ => .refl h)

theorem leaveRest_work (h : s.Shaped) : Work s (leaveRest a s) := (Work.modMot h).then fun h => withdrawStandby_work h

theorem idleOrUnhomed_work (h : s.Shaped) : Work s (idleOrUnhomed a s) := .ite (fun _ => enterIdle_work h) (fun _ => .setArmState h)

theorem endRackWait_work (h : s.Shaped) : Work s (endRackWait a s) := .ite (fun _ => setRack_work h h.ports) (fun _ => .refl h)

theorem releaseRack_work (h : s.Shaped) : Work s (releaseRack s) := by
  unfold releaseRack
  split
  · rename_i b _
    exact (setRack_work (r := { s.rack with holder := some b, waiter := none }) h h.ports).then fun h => .modMot h
  · exact setRack_work h h.ports

theorem closeLids_work {l : List Nat} (h : s.Shaped) : Work s (closeLids l s) :=
  .foldl l h (fun _ _ _ h => .ite (fun _ => .refl h) (fun _ => send_work h))

theorem endChange_work (h : s.Shaped) : Work s (endChange a s) := by
  unfold endChange
  refine .ite (fun _ => ?_) (fun _ => .refl h)
  exact ((closeLids_work h).then fun h => Work.setChange h).then fun h => releaseRack_work h

theorem answerCoupling_work (h : s.Shaped) : Work s (answerCoupling a s) := by
  unfold answerCoupling
  split <;> first | exact send_work h | exact .refl h

theorem abandonSupply_work {x : ChangeStep} (h : s.Shaped) : Work s (abandonSupply a x s) := by
  unfold abandonSupply
  split <;> first | exact (supplyOff_work h).then fun h => unpower_work h | exact .refl h

/-- Abandoning, once: whatever the arm was doing, ending it is work. -/
theorem abandon_work {w : Bool} (h : s.Shaped) : Work s (abandon a w s) := by
  unfold abandon
  refine (stopSampling_work (a := a) h).then fun h => ?_
  dsimp only
  split
  · exact .restAt h
  · exact (endZoneWait_work h).then fun h => .restAt h
  · exact .restAt h
  · exact .restAt h
  · exact .restAt h
  · exact (send_work h).then fun h => .restAt h
  · exact (supplyOff_work h).then fun h => .restAt h
  · exact (endRackWait_work h).then fun h => .restAt h
  · split
    · exact (abandonSupply_work h).then fun h => .restAt h
    · exact .restAt h
  · exact (dropRequest_work h).then fun h => .restAt h
  · exact .restAt h
  · exact .restAt h

theorem drivesAfter_work {f : FaultCode} (h : s.Shaped) : Work s (drivesAfter a f s) := .ite (fun _ => drivesOff_work h) (fun _ => .refl h)

theorem recordFault_work {f : FaultCode} (h : s.Shaped) : Work s (recordFault a f s) := (Work.modMot h).then fun h => setCause_work h

theorem faultAt_work {f : FaultCode} {r : ResumePoint} (h : s.Shaped) : Work s (faultAt a f r s) := by
  unfold faultAt
  dsimp only
  exact (((recordFault_work h).then fun h => stopSampling_work h).then fun h => drivesAfter_work h).then fun h => .modMot h

theorem stopFor_work {f : Stop → Stop} (h : s.Shaped) : Work s (stopFor a f s) := (Work.modMot h).then fun h => stopSampling_work h

theorem abandonLocating_work (h : s.Shaped) : Work s (abandonLocating a s) := by
  unfold abandonLocating
  split
  · exact abandon_work h
  · exact .refl h

theorem faultAtEnd_work {o : PlanOutcome} {f c : FaultCode} (h : s.Shaped) : Work s (faultAtEnd a o f c s) :=
  (Work.ite (fun _ => recordFault_work h) (fun _ => .refl h)).then fun h => .setDoing h

/-- A runtime fault, once: wherever it reaches the arm, taking it is work (R57). -/
theorem raiseFault_work {f : FaultCode} (h : s.Shaped) : Work s (raiseFault a f s) := by
  have taken {s : State} (h : s.Shaped) : Work s (drivesAfter a f (recordFault a f s)) :=
    (recordFault_work h).then fun h => drivesAfter_work h
  unfold raiseFault
  split
  · exact stopFor_work h
  · exact (faultAtEnd_work h).then fun h => drivesAfter_work h
  · refine .ite (fun _ => taken h) (fun _ => ?_)
    split
    · exact (taken h).then fun h => abandonLocating_work h
    · exact (taken h).then fun h => abandonLocating_work h
    · exact (abandon_work h).then fun h => faultAt_work h

/-- The resume point of an overcurrent, once: `supplyPoint` gives what `OvercurrentLeaves` says (R101). -/
theorem OvercurrentLeaves.supplyPoint_eq {r q : ResumePoint} (h : OvercurrentLeaves s a r q) :
    supplyPoint (s.doing a) (s.arm a).exec.item r = q := by
  unfold supplyPoint
  cases h with
  | move p k d => rcases d with d | ⟨_, _, _, d⟩ <;> simp [d, Doing.standsBefore, leftToBoundary, k]
  | fetched i e d n m => rcases d with d | d <;> cases i <;> simp_all [Doing.standsBefore, leftToBoundary]
  | again i e k => rcases k with ⟨_, rfl⟩ | ⟨_, _, rfl⟩ <;> simp [e, leftToBoundary]
  | activity d k => rcases k with k | k <;> simp [k, Doing.standsBefore]
  | shadow p d => simp [d, Doing.standsBefore]
  | phase p k => simp [leftToBoundary, k]
  | keeps _ m n => cases r <;> simp_all [leftToBoundary]

/-- Where the head holds another probe, or none, it loses nothing (R87). -/
theorem forgetProbe_other {p : Nat} (h : (s.arm a).head.occ ≠ .probe p) : forgetProbe a p s = s := by simp [forgetProbe, h]

end Sys2Proof.Machine
end

