-- ==== Sys2Proof/Laws/WorkArm.lean ====
section
/-! SUPPORT. The same for what an arm does: the executor, segment starts, changes, captures, stops, the service of claims and grants, and
the scan. One lemma per operation, each saying that it is work. -/

namespace Sys2Proof.Machine

variable {s t u : State} {a : Arm}

/-! ### Items -/

theorem orientsAt_length (bs : List Byte) (off n : Nat) : (orientsAt bs off n).length = n := by
  induction n generalizing off with
  | zero => rfl
  | succ n ih => simp [orientsAt, ih]

theorem nodesAt_length (bs : List Byte) (off n : Nat) : (nodesAt bs off n).length = n := by
  induction n generalizing off with
  | zero => rfl
  | succ n ih => simp [nodesAt, ih]

theorem checked_sound {ok : Bool} {i j : Item} (h : checked ok i = .inr j) (hi : ok = true → i.sound) : j.sound := by
  unfold checked at h
  split at h
  · cases h; exact hi (by assumption)
  · cases h

theorem updateOf_sound {bs : List Byte} {i : Item} (h : updateOf bs = .inr i) : i.sound := by
  unfold updateOf at h
  split at h
  · cases h
  · refine checked_sound h (fun ok => ⟨fun l hl => ?_, fun k o hk => ?_⟩)
    · simp only [updateFields, picked] at hl
      split at hl
      · rename_i h9
        cases hl
        simp only [updateOk, ifSel, Bool.and_eq_true, Bool.or_eq_true, decide_eq_true_eq, h9, Bool.not_true, Bool.false_eq_true,
          false_or] at ok
        rw [orientsAt_length]
        exact ok.2.2.2.2.2.2.2.2.2.2.2.1.1
      · cases hl
    · simp only [updateFields, picked] at hk
      split at hk
      · rename_i h10
        cases hk
        simp only [updateOk, ifSel, Bool.and_eq_true, Bool.or_eq_true, decide_eq_true_eq, h10, Bool.not_true, Bool.false_eq_true,
          false_or] at ok
        exact ok.2.2.2.2.2.2.2.2.2.2.2.2.1
      · cases hk

/-- Every item that a fetch hands on is sound. -/
theorem bodyOf_sound {k : Nat} {bs : List Byte} {i : Item} (h : bodyOf k bs = .inr i) : i.sound := by
  unfold bodyOf at h
  split at h
  · exact checked_sound h (fun _ => trivial)
  · exact checked_sound h (fun _ => trivial)
  · cases h; trivial
  · exact checked_sound h (fun _ => trivial)
  · exact checked_sound h (fun _ => trivial)
  · exact checked_sound h (fun _ => trivial)
  · unfold changeOf at h; split at h <;> cases h; trivial
  · exact checked_sound h (fun _ => trivial)
  · cases h; trivial
  · cases h; trivial
  · cases h; trivial
  · exact updateOf_sound h
  · unfold setLocationOf at h
    split at h
    · cases h
    · split at h <;> cases h; trivial
  · cases h; exact nodesAt_length _ _ _
  · cases h; trivial
  · exact checked_sound h (fun _ => trivial)
  · cases h

theorem decodeItem_sound {m : Mem} {slot off left n : Nat} {i : Item} (h : decodeItem m slot off left = .inr (i, n)) : i.sound := by
  unfold decodeItem at h
  dsimp only at h
  split at h
  · split at h
    · cases h
    · rename_i j hb; cases h; exact bodyOf_sound hb
  · cases h

/-! ### The executor -/

theorem countItem_shaped {e : Executor} (h : e.shaped) : (countItem e).shaped := by unfold countItem; split <;> exact h

theorem ended_shaped (e : Executor) : e.ended.shaped := ⟨by simp [Executor.ended], by simp [Executor.ended]⟩

theorem pastItem_shaped {e : Executor} (h : e.shaped) : (pastItem e).shaped := ⟨h.1, by simp [pastItem]⟩

theorem itemDone_shaped {e : Executor} (h : e.shaped) : (itemDone e).shaped := by
  unfold itemDone
  split
  · exact countItem_shaped (pastItem_shaped h)
  · split
    · exact countItem_shaped ⟨h.1, by simp [pastItem]⟩
    · exact ⟨h.1, by simp⟩

theorem popEntry_shaped {w l : Nat} {c : CallEntry} {r : List CallEntry} {e : Executor} (h : e.shaped) : (popEntry w l c r e).shaped := by
  unfold popEntry
  dsimp only
  split
  · exact countItem_shaped ⟨h.1, h.2⟩
  · split
    · exact countItem_shaped ⟨h.1, h.2⟩
    · exact ⟨h.1, h.2⟩

theorem pushCall_shaped {n l : Nat} {e : Executor} (h : e.shaped) : (pushCall n l e).shaped := ⟨h.1, by simp [pushCall]⟩

theorem endCapture_work (h : s.Shaped) : Work s (endCapture a s) := by
  unfold endCapture; dsimp only
  exact ((addDropped_work h).then fun h => Work.modCap h).then fun h => .modScale h

theorem leavePlan_work (h : s.Shaped) : Work s (leavePlan a s) := by
  unfold leavePlan
  dsimp only
  split
  · exact .modMot h
  · exact .modMot h
  · exact (Work.modMot h).then fun h => idleOrUnhomed_work h

theorem closePlan_work (h : s.Shaped) : Work s (closePlan a s) :=
  ((endChange_work h).then fun h => endCapture_work h).then fun h => closeChain_work h

theorem showFault_work {f : FaultCode} (h : s.Shaped) : Work s (showFault a f s) := .ite (fun _ => .refl h) (fun _ => .modMot h)

/-- The end of a plan, once (R45). -/
theorem endPlan_work {o : PlanOutcome} {f : FaultCode} (h : s.Shaped) : Work s (endPlan a o f s) := by
  unfold endPlan
  split
  · rename_i p hp
    have hn : p.slot < slotCount := (h.arm a).1.1 p hp
    dsimp only
    exact ((((closePlan_work h).then fun h => writeOutcome_work h hn).then fun h => Work.modExec h fun _ => ended_shaped _).then
      fun h => showFault_work h).then fun h => leavePlan_work h
  · exact .refl h

theorem endRevoked_work (h : s.Shaped) : Work s (endRevoked a s) :=
  (((closePlan_work h).then fun h => Work.modExec h fun _ => ended_shaped _).then fun h => showFault_work h).then fun h => leavePlan_work h

theorem failPlan_work {f : FaultCode} (h : s.Shaped) : Work s (failPlan a f s) := endPlan_work h

theorem judgeWarning_work (h : s.Shaped) : Work s (judgeWarning a s) := by
  unfold judgeWarning
  dsimp only
  refine .ite (fun _ => ?_) (fun _ => .refl h)
  exact (Work.modExec h fun x => ⟨x.1, x.2⟩).then fun h => setCause_work h

theorem fetchItem_work (h : s.Shaped) : Work s (fetchItem a s) := by
  unfold fetchItem
  dsimp only
  split
  · exact failPlan_work h
  · rename_i i n hd
    refine .ite (fun _ => failPlan_work h) (fun _ => ?_)
    refine (Work.modExec h fun x => ⟨x.1, ?_⟩).then fun h => .setDoing h
    rintro j ⟨⟩
    exact decodeItem_sound hd

theorem fetchFrom_work (n : Nat) (h : s.Shaped) : Work s (fetchFrom a n s) := by
  induction n generalizing s with
  | zero => exact .refl h
  | succ n ih =>
    rw [fetchFrom]
    dsimp only
    split
    · exact .refl h
    · refine .ite (fun _ => endRevoked_work h) (fun _ => .ite (fun _ => endPlan_work h) (fun _ => .ite (fun _ => failPlan_work h)
        (fun _ => .ite (fun _ => failPlan_work h) (fun _ => ?_))))
      refine (Work.modExec (a := a) (f := fun e => { e with headerDue := false, policyDue := false }) h fun x => ⟨x.1, x.2⟩).then fun h => ?_
      refine .ite (fun _ => ?_) (fun _ => fetchItem_work h)
      split
      · exact endPlan_work h
      · exact (Work.modExec h popEntry_shaped).then fun h => ih h

/-- A fetch, once: whatever it finds, it is work (R27). -/
theorem fetch_work (h : s.Shaped) : Work s (fetch a s) := by
  unfold fetch
  exact (Work.modMot h).then fun h => fetchFrom_work _ h

theorem boundary_work (h : s.Shaped) : Work s (boundary a s) := by
  unfold boundary
  dsimp only
  split
  · exact .restAt h
  · exact .restAt h
  · exact .restAt h
  · exact .ite (fun _ => (Work.modMot h).then fun h => .restAt h) (fun _ => fetch_work h)

theorem completeItem_work (h : s.Shaped) : Work s (completeItem a s) := (Work.modExec h itemDone_shaped).then fun h => boundary_work h

theorem completeCapture_work (h : s.Shaped) : Work s (completeCapture a s) :=
  (((addDropped_work h).then fun h => Work.modCap h).then fun h => releaseGrant_work h).then fun h => completeItem_work h

/-! ### Segment starts -/

theorem startSegment_work {r : SegReq} (h : s.Shaped) : Work s (startSegment a r s) := by
  unfold startSegment
  refine .ite (fun _ => .ite (fun _ => (Work.modScale h).then fun h => faultAt_work h) (fun _ => .modMot h))
    (fun _ => .ite (fun _ => faultAt_work h) (fun _ => .modMot h))

theorem takeContext_work (h : s.Shaped) : Work s (takeContext a s) := by
  unfold takeContext; dsimp only; exact .modCap h

theorem countClamp_work {b : Bool} (h : s.Shaped) : Work s (countClamp a b s) :=
  .ite (fun _ => .modExec h fun x => ⟨x.1, x.2⟩) (fun _ => .refl h)

theorem startSampling_work (h : s.Shaped) : Work s (startSampling a s) := by
  unfold startSampling
  split
  · exact .modCap h
  · exact .refl h

theorem beginProfile_work {r : SegReq} {f : Nat} (h : s.Shaped) : Work s (beginProfile a r f s) := by
  unfold beginProfile
  dsimp only
  split
  · exact (Work.modScale h).then fun h => .modMot h
  · exact .ite (fun _ => (Work.modMot h).then fun h => startSampling_work h) (fun _ => .modMot h)

theorem startDrives_work {r : SegReq} {f : Nat} (h : s.Shaped) : Work s (startDrives a r f s) := by
  unfold startDrives
  dsimp only
  exact .ite (fun _ => beginProfile_work h) (fun _ => ((Work.modMot h).then fun h => stopSampling_work h).then fun h => send_work h)

theorem startFeed_work {r : SegReq} (h : s.Shaped) : Work s (startFeed a r s) := by
  unfold startFeed
  dsimp only
  exact (countClamp_work h).then fun h => startDrives_work h

theorem startProbing_work {r : SegReq} (h : s.Shaped) : Work s (startProbing a r s) := by
  unfold startProbing
  refine .ite (fun _ => (stopSampling_work h).then fun h => .setDoing h) (fun _ => ?_)
  split
  · exact faultAt_work h
  · exact ((selectOrient_work h).then fun h => takeContext_work h).then fun h => startFeed_work h

theorem continueStart_work {r : SegReq} (h : s.Shaped) : Work s (continueStart a r s) := by
  unfold continueStart
  refine .ite (fun _ => startDrives_work h) (fun _ => ?_)
  split
  · exact faultAt_work h
  · dsimp only
    exact (refresh_work h).then fun h => .ite (fun _ => startProbing_work h) (fun _ => startFeed_work h)

/-! ### Changes -/

theorem modChange_work {f : Change → Change} (h : s.Shaped) : Work s (s.modChange a f) := .setArm h (h.arm a)

theorem atStep_work {x : ChangeStep} (h : s.Shaped) : Work s (s.atStep a x) := modChange_work h

theorem awaitStep_work {n : Nat} (h : s.Shaped) : Work s (awaitStep a n s) := by
  unfold awaitStep; dsimp only; exact .modMot h

theorem approachStep_work {x : ChangeStep} (h : s.Shaped) : Work s (approachStep a x s) := by
  unfold approachStep; dsimp only; exact (atStep_work h).then fun h => startSegment_work h

theorem dockStep_work {x : ChangeStep} (h : s.Shaped) : Work s (dockStep a x s) := by
  unfold dockStep; dsimp only; exact (atStep_work h).then fun h => startSegment_work h

theorem openStep_work {x : ChangeStep} (h : s.Shaped) : Work s (openStep a x s) := by
  unfold openStep; dsimp only
  exact (((atStep_work h).then fun h => modChange_work h).then fun h => send_work h).then fun h => awaitStep_work h

theorem closeStep_work {x : ChangeStep} (h : s.Shaped) : Work s (closeStep a x s) :=
  ((atStep_work h).then fun h => send_work h).then fun h => awaitStep_work h

theorem confirmDrop_work (h : s.Shaped) : Work s (confirmDrop a s) :=
  ((moveProbe_work h).then fun h => forgetProbe_work h).then fun h => approachStep_work h

theorem stepD7_work (h : s.Shaped) : Work s (stepD7 a s) := by
  unfold stepD7; dsimp only
  exact (atStep_work h).then fun h => .ite (fun _ => confirmDrop_work h) (fun _ => awaitStep_work h)

theorem stepD5_work (h : s.Shaped) : Work s (stepD5 a s) := ((atStep_work h).then fun h => send_work h).then fun h => awaitStep_work h

theorem stepD4_work (h : s.Shaped) : Work s (stepD4 a s) := ((supplyOff_work h).then fun h => unpower_work h).then fun h => stepD5_work h

theorem stepD6_work (h : s.Shaped) : Work s (stepD6 a s) :=
  (((moveProbe_work h).then fun h => setOccupancy_work h).then fun h => clearContext_work h).then fun h => stepD7_work h

theorem afterD1_work (h : s.Shaped) : Work s (afterD1 a s) := .ite (fun _ => openStep_work h) (fun _ => faultAt_work h)

theorem lockStep_work {n : Nat} (h : s.Shaped) : Work s (lockStep a n s) :=
  (((atStep_work h).then fun h => modChange_work h).then fun h => send_work h).then fun h => awaitStep_work h

theorem stepP5_work (h : s.Shaped) : Work s (stepP5 a s) := ((atStep_work h).then fun h => supplyOn_work h).then fun h => awaitStep_work h

theorem stepP4_work (h : s.Shaped) : Work s (stepP4 a s) := by
  unfold stepP4; dsimp only
  exact (((moveProbe_work h).then fun h => setOccupancy_work h).then fun h => Work.modHead h).then fun h => stepP5_work h

theorem askIdentity_work (h : s.Shaped) : Work s (askIdentity a s) :=
  ((atStep_work h).then fun h => send_work h).then fun h => awaitStep_work h

theorem stepP6_work (h : s.Shaped) : Work s (stepP6 a s) := by
  unfold stepP6; dsimp only
  exact (Work.modHead h).then fun h => askIdentity_work h

theorem afterP1_work (h : s.Shaped) : Work s (afterP1 a s) := .ite (fun _ => openStep_work h) (fun _ => faultAt_work h)

theorem moveP7_work {c : Option Timer} (h : s.Shaped) : Work s (moveP7 a c s) := (modChange_work h).then fun h => approachStep_work h

theorem afterP7Move_work (h : s.Shaped) : Work s (afterP7Move a s) :=
  .ite (fun _ => closeStep_work h) (fun _ => (atStep_work h).then fun h => Work.modMot h)

theorem phaseEnds_work (h : s.Shaped) : Work s (phaseEnds a s) := .setDoing h

theorem mountPicked_work (h : s.Shaped) : Work s (mountPicked a s) := by
  unfold mountPicked; dsimp only
  split
  · exact (mountFails_work h).then fun h => faultAt_work h
  · exact (mount_work h).then fun h => phaseEnds_work h

theorem moveStepDone_work (h : s.Shaped) : Work s (moveStepDone a s) := by
  unfold moveStepDone
  split
  · exact afterD1_work h
  · exact stepD4_work h
  · exact closeStep_work h
  · exact afterP1_work h
  · exact lockStep_work h
  · exact afterP7Move_work h
  · exact .setDoing h

theorem lidStepDone_work (h : s.Shaped) : Work s (lidStepDone a s) := by
  unfold lidStepDone
  split
  · exact dockStep_work h
  · exact phaseEnds_work h
  · exact dockStep_work h
  · exact mountPicked_work h
  · exact .refl h

theorem beginPhase_work {p : Nat} {x : ChangeStep} (h : s.Shaped) : Work s (beginPhase a p x s) := by
  unfold beginPhase; dsimp only; exact (modChange_work h).then fun h => approachStep_work h

theorem changeDone_work (h : s.Shaped) : Work s (changeDone a s) :=
  ((Work.setChange h).then fun h => releaseRack_work h).then fun h => completeItem_work h

theorem decidePhase_work (h : s.Shaped) : Work s (decidePhase a s) := by
  unfold decidePhase; dsimp only
  split
  · exact .ite (fun _ => changeDone_work h) (fun _ => beginPhase_work h)
  · exact .ite (fun _ => changeDone_work h) (fun _ => beginPhase_work h)
  · exact failPlan_work h

theorem holdRack_work (h : s.Shaped) : Work s (holdRack a s) := by
  unfold holdRack; dsimp only
  have w {c : Option Change} : Work s (if (s.arm a).change.isSome then s else s.setChange a c) :=
    .ite (fun _ => .refl h) (fun _ => .setChange h)
  exact w.then fun h => decidePhase_work h

theorem claimRack_work (h : s.Shaped) : Work s (claimRack a s) := by
  unfold claimRack; dsimp only
  refine .ite (fun _ => ?_) (fun _ => ?_)
  · exact ((setRack_work (r := { s.rack with waiter := some a }) h h.ports).then fun h => Work.modMot h).then fun h => setCause_work h
  · exact (setRack_work (r := { s.rack with holder := some a }) h h.ports).then fun h => .modMot h

theorem restartChange_work {x : ChangeStep} (h : s.Shaped) : Work s (restartChange a x s) := by
  unfold restartChange; dsimp only
  split
  · exact (Work.modMot h).then fun h => .setDoing h
  · exact (Work.modMot h).then fun h => .setDoing h
  · exact (Work.modMot h).then fun h => .setDoing h
  · exact openStep_work h
  · exact dockStep_work h
  · exact stepD5_work h
  · exact stepD7_work h
  · exact approachStep_work h
  · exact closeStep_work h
  · exact openStep_work h
  · exact dockStep_work h
  · exact lockStep_work h
  · exact lockStep_work h
  · exact stepP5_work h
  · exact askIdentity_work h
  · exact moveP7_work h
  · exact moveP7_work h
  · exact closeStep_work h
  · exact (Work.modMot h).then fun h => failPlan_work h

/-! ### Captures -/

theorem requestRoom_work {n : Nat} (h : s.Shaped) : Work s (requestRoom a n s) := by
  unfold requestRoom
  split
  · dsimp only
    refine .ite (fun _ => (judgeRoom_work h).then fun h => .modMot h)
      (fun _ => .ite (fun _ => (judgeRoom_work h).then fun h => .restAt h) (fun _ => ?_))
    exact (((judgeRoom_work h).then fun h => Work.modWr h fun w => w).then fun h => Work.modMot h).then fun h => setCause_work h
  · exact .refl h

theorem takeItem_work {i : Item} (h : s.Shaped) : Work s (takeItem a i s) := by
  unfold takeItem; dsimp only; exact .modCap h

theorem setPhase_work {p : CapturePhase} (h : s.Shaped) : Work s (setPhase a p s) := .modCap h

theorem startPass1_work (h : s.Shaped) : Work s (startPass1 a s) := by
  unfold startPass1; dsimp only; exact (setPhase_work h).then fun h => startSegment_work h

theorem startPass2_work (h : s.Shaped) : Work s (startPass2 a s) := by
  unfold startPass2; dsimp only; exact (setPhase_work h).then fun h => startSegment_work h

theorem emptyLatch_work (h : s.Shaped) : Work s (emptyLatch a s) := .modScale h

theorem handOnPoint_work {p : PointIn} (h : s.Shaped) : Work s (handOnPoint a p s) := placeRecord_work h

theorem decideHit_work {k : SegKind} {l : Latch} (h : s.Shaped) : Work s (decideHit a k l s).2 := by
  unfold decideHit; dsimp only
  split
  · dsimp only
    exact ((emptyLatch_work h).then fun h => handOnPoint_work h).then fun h => .modCap h
  · dsimp only
    exact (emptyLatch_work h).then fun h => .modCap h

theorem passMissed_work (h : s.Shaped) : Work s (passMissed a s) := by
  unfold passMissed; dsimp only
  exact .ite (fun _ => (setPhase_work h).then fun h => startSegment_work h) (fun _ => (setPhase_work h).then fun h => startSegment_work h)

theorem retryPass_work (h : s.Shaped) : Work s (retryPass a s) := (Work.modCap h).then fun h => startPass1_work h

theorem touchEnds_work (h : s.Shaped) : Work s (touchEnds a s) := by
  unfold touchEnds; dsimp only
  exact .ite (fun _ => completeCapture_work h) (fun _ => .ite (fun _ => faultAt_work h)
    (fun _ => (placeRecord_work h).then fun h => completeCapture_work h))

theorem touchAgain_work (h : s.Shaped) : Work s (touchAgain a s) := (Work.modCap h).then fun h => startPass1_work h

theorem startLeg_work {k : Nat} (h : s.Shaped) : Work s (startLeg a k s) := (setPhase_work h).then fun h => startSegment_work h

theorem legDone_work {k : Nat} {r : SegReq} (h : s.Shaped) : Work s (legDone a k r s) := by
  unfold legDone; dsimp only
  exact .ite (fun _ => startLeg_work h) (fun _ => (stopSampling_work h).then fun h =>
    .ite (fun _ => .setDoing h) (fun _ => completeCapture_work h))

theorem roomGranted_work (h : s.Shaped) : Work s (roomGranted a s) := by
  unfold roomGranted
  split
  · dsimp only; exact (Work.modCap h).then fun h => startPass1_work h
  · dsimp only; exact (Work.modCap h).then fun h => startLeg_work h
  · exact (placeRecord_work h).then fun h => completeCapture_work h
  · exact .setDoing h

theorem judgeSample_work {x : Sample} {d : Option Vec3} (h : s.Shaped) : Work s (judgeSample a x d s) := by
  unfold judgeSample; dsimp only
  exact .ite (fun _ => raiseFault_work h) (fun _ => .ite (fun _ => .modCap h)
    (fun _ => (Work.modCap h).then fun h => handOnPoint_work h))

theorem sampleDone_work {d : Option Vec3} (h : s.Shaped) : Work s (sampleDone a d s) := by
  unfold sampleDone
  split
  · exact (Work.modCap h).then fun h => judgeSample_work h
  · exact .refl h

/-- What follows a completed segment, once (R56). -/
theorem segmentDone_work {r : SegReq} (h : s.Shaped) : Work s (segmentDone a r s) := by
  unfold segmentDone
  split
  · exact completeItem_work h
  · exact passMissed_work h
  · exact passMissed_work h
  · exact startPass2_work h
  · exact retryPass_work h
  · exact touchEnds_work h
  · exact legDone_work h
  · exact moveStepDone_work h
  · exact .refl h

theorem showPosition_work (h : s.Shaped) : Work s (s.showPosition a) := by
  unfold State.showPosition; dsimp only; exact .modMot h

theorem counted_work {c : Counts} (h : s.Shaped) : Work s (s.counted a c) := .modScale h

theorem homeDone_work (h : s.Shaped) : Work s (homeDone a s) := by
  unfold homeDone; dsimp only
  exact ((((Work.modScale h).then fun h => Work.modMot h).then fun h => showPosition_work h).then fun h => releaseByEnvelope_work h).then
    fun h => completeItem_work h

/-! ### Rest, HOLD, RESUME, ABORT, the emergency stop -/

theorem leaveEstop_work (h : s.Shaped) : Work s (leaveEstop a s) :=
  .ite (fun _ => .modMot h) (fun _ => (Work.modMot h).then fun h => idleOrUnhomed_work h)

theorem finishEnd_work {o : PlanOutcome} {f : FaultCode} (h : s.Shaped) : Work s (finishEnd a o f s) := by
  unfold finishEnd; dsimp only
  have w : Work s (if o = .withdrawn then endPlan a o f s else releaseByEnvelope a (endPlan a o f s)) :=
    .ite (fun _ => endPlan_work h) (fun _ => (endPlan_work h).then fun h => releaseByEnvelope_work h)
  exact w.then fun h => .ite (fun _ => leaveEstop_work h) (fun _ => .refl h)

theorem endOrWait_work {o : PlanOutcome} {f : FaultCode} (h : s.Shaped) : Work s (endOrWait a o f s) :=
  .ite (fun _ => .modMot h) (fun _ => finishEnd_work h)

theorem afterSample_work (h : s.Shaped) : Work s (afterSample a s) := by
  unfold afterSample
  split
  · exact completeCapture_work h
  · exact finishEnd_work h
  · exact .refl h

theorem restHit_work {g : Segment} {st : Stop} (h : s.Shaped) : Work s (restHit a g st s).2 := by
  unfold restHit
  split
  · dsimp only
    split
    · exact decideHit_work h
    · exact emptyLatch_work h
  · exact .refl h

theorem restDrives_work {st : Stop} (h : s.Shaped) : Work s (restDrives a st s) := .ite (fun _ => drivesOff_work h) (fun _ => .refl h)

theorem standAt_work {r : ResumePoint} (h : s.Shaped) : Work s (standAt a r s) := .modMot h

theorem restInEstop_work {st : Stop} {r : ResumePoint} (h : s.Shaped) : Work s (restInEstop a st r s) := by
  unfold restInEstop; dsimp only
  split
  · exact (((standAt_work h).then fun h => recordFault_work h).then fun h => Work.modMot h).then fun h =>
      .ite (fun _ => .refl h) (fun _ => leaveEstop_work h)
  · exact (standAt_work h).then fun h => .ite (fun _ => .refl h) (fun _ => leaveEstop_work h)

theorem restNext_work {g : Segment} {st : Stop} {n : Option SegReq} (h : s.Shaped) : Work s (restNext a g st n s) := by
  unfold restNext; dsimp only
  refine .ite (fun _ => standAt_work h) (fun _ => ?_)
  split
  · exact (standAt_work h).then fun h => endOrWait_work h
  · refine .ite (fun _ => restInEstop_work h) (fun _ => ?_)
    split
    · exact faultAt_work h
    · refine .ite (fun _ => (standAt_work h).then fun h => .setArmState h) (fun _ => ?_)
      split
      · exact (standAt_work h).then fun h => startSegment_work h
      · exact standAt_work h

/-- An arm's coming to rest, once (R56). -/
theorem restArm_work (h : s.Shaped) : Work s (restArm a s) := by
  unfold restArm
  split
  · dsimp only
    exact (((showPosition_work h).then fun h => restDrives_work h).then fun h => restHit_work h).then fun h => restNext_work h
  · exact .refl h

/-- What an arm makes of a command, if it takes it, is work. -/
def Taken (s : State) (o : Option State) : Prop := ∀ t, o = some t → Work s t

theorem Taken.some (h : Work s t) : Taken s (some t) := by rintro _ ⟨⟩; exact h

theorem Taken.none : Taken s none := by rintro _ ⟨⟩

theorem holdNow_work (h : s.Shaped) : Work s (holdNow a s) := (abandon_work h).then fun h => .setArmState h

theorem holdLater_work (h : s.Shaped) : Work s (holdLater a s) := .modMot h

theorem holdRunning_taken (h : s.Shaped) : Taken s (holdRunning a s) := by
  unfold holdRunning
  split
  · split
    · unfold holdStopping
      split
      · exact .none
      · split
        · exact .some (.refl h)
        · exact .some (stopFor_work h)
    · exact .some (stopFor_work h)
  · split
    · exact .some (holdNow_work h)
    · exact .some (holdLater_work h)
  · exact .some (holdLater_work h)
  · exact .some (holdLater_work h)
  · exact .none
  · exact .some (holdNow_work h)

/-- HOLD at one arm, once (R64). -/
theorem holdArm_taken (h : s.Shaped) : Taken s (holdArm a s) := by
  unfold holdArm
  split
  · exact .none
  · split <;> first | exact .some (holdLater_work h) | exact holdRunning_taken h | exact .none

theorem startAgain_work {r : SegReq} (h : s.Shaped) : Work s (startAgain a r s) := by
  unfold startAgain
  have w : Work s (match r.kind with
      | .changeMove => s.modChange a (fun c => { c with confirm := none })
      | _ => s) := by
    split
    · exact modChange_work h
    · exact .refl h
  exact w.then fun h => startSegment_work h

theorem carryOut_work {r : ResumePoint} (h : s.Shaped) : Work s (carryOut a r s) := by
  unfold carryOut; dsimp only
  refine (Work.modMot (a := a) (f := fun m => { m with state := .running, resume := none }) h).then fun h => ?_
  split
  · exact startAgain_work h
  · exact .setDoing h
  · exact homeDone_work h
  · exact startSegment_work h
  · exact startAgain_work h
  · exact .setDoing h
  · exact requestRoom_work h
  · exact restartChange_work h
  · exact .setDoing h
  · exact touchAgain_work h
  · exact fetch_work h

theorem resumeNow_work (h : s.Shaped) : Work s (resumeNow a s) := by
  unfold resumeNow
  split
  · exact (report_work h).then fun h => carryOut_work h
  · exact (report_work h).then fun h => .setArmState h

/-- RESUME at one arm, once (R65). -/
theorem resumeArm_taken (h : s.Shaped) : Taken s (resumeArm a s) := by
  unfold resumeArm
  split
  · exact .none
  · exact .some (resumeNow_work h)
  · split
    · exact .none
    · exact .some (resumeNow_work h)
  · exact .none

/-- ABORT or STOP at one arm, once (R66, R72). -/
theorem endArm_taken {o : PlanOutcome} (h : s.Shaped) : Taken s (endArm a o s) := by
  unfold endArm
  split
  · exact .none
  · split
    · split
      · exact .none
      · exact .some (stopFor_work h)
    · exact .none
    · refine .some ?_
      unfold endStationary; dsimp only
      exact ((answerCoupling_work h).then fun h => abandon_work h).then fun h => endOrWait_work h

/-- The emergency stop at one arm, once (R68). -/
theorem estopArm_work (h : s.Shaped) : Work s (estopArm a s) := by
  unfold estopArm; dsimp only
  have w : Work s (leaveRest a s) := leaveRest_work h
  refine .ite (fun _ => .refl h) (fun _ => ?_)
  split
  · exact (w.then fun h => stopFor_work h).then fun h => .modMot h
  · have ab {s : State} (h : s.Shaped) : Work s (if s.hasPlan a && !goesOn s a then abandon a false s else s) :=
      .ite (fun _ => abandon_work h) (fun _ => .refl h)
    exact ((w.then ab).then fun h => drivesOff_work h).then fun h => .modMot h

theorem releaseArm_work (h : s.Shaped) : Work s (releaseArm a s) := by
  unfold releaseArm
  refine .ite (fun _ => ?_) (fun _ => .refl h)
  split
  · exact .refl h
  · exact .refl h
  · exact leaveEstop_work h

/-- A lost scale at one arm, once (R48). -/
theorem scaleFaultArm_work (h : s.Shaped) : Work s (scaleFaultArm a s) := by
  have ab {s : State} (h : s.Shaped) {x : FaultCode} :
      Work s (faultAt a x (((abandon a true s).arm a).mot.resume.getD .boundary) (abandon a true s)) :=
    (abandon_work h).then fun h => faultAt_work h
  unfold scaleFaultArm; dsimp only
  refine Work.then (t := setCause .armFault (s.modMot a (fun m =>
      { m with lastFault := .scaleFault, estopFaulted := m.estopFaulted || decide (m.state = .estop) })))
    ((Work.modMot h).then fun h => setCause_work h) fun h => ?_
  split
  · exact stopFor_work h
  · exact (Work.setDoing h).then fun h => drivesOff_work h
  · split
    · exact drivesOff_work h
    · exact ((drivesOff_work h).then fun h => leaveRest_work h).then fun h => .setArmState h
    · exact ((drivesOff_work h).then fun h => leaveRest_work h).then fun h => .setArmState h
    · exact .ite (fun _ => ab h) (fun _ => .modMot h)
    · exact (drivesOff_work h).then fun h => abandonLocating_work h
    · exact abandonLocating_work h
    · exact ab h

/-! ### The service of claims and grants -/

theorem serveRack_work (h : s.Shaped) : Work s (serveRack s) := by
  unfold serveRack
  split
  · dsimp only
    exact ((claimRack_work h).then fun h => claimRack_work h).then fun h => .withRack h h.ports
  · exact claimRack_work h
  · exact claimRack_work h
  · exact .refl h

theorem serveGrant_work (h : s.Shaped) : Work s (serveGrant a s) := by
  unfold serveGrant
  split
  · exact holdRack_work h
  · exact roomGranted_work h
  · exact .refl h

theorem serveGrants_work (h : s.Shaped) : Work s (serveGrants s) := (serveGrant_work h).then fun h => serveGrant_work h

theorem serveClaim_work (h : s.Shaped) : Work s (serveClaim a s) := by
  unfold serveClaim
  split
  · exact .ite (fun _ => faultAt_work h) (fun _ => .ite (fun _ => claimOrWait_work h)
      (fun _ => (stopSampling_work h).then fun h => claimOrWait_work h))
  · exact .refl h

theorem serveClaims_work (h : s.Shaped) : Work s (serveClaims s) := by
  unfold serveClaims; dsimp only
  exact .ite (fun _ => ((serveClaim_work h).then fun h => serveClaim_work h).then fun h => .withTie h)
    (fun _ => (serveClaim_work h).then fun h => serveClaim_work h)

theorem serveStart_work (h : s.Shaped) : Work s (serveStart a s) := by
  unfold serveStart
  split
  · exact continueStart_work h
  · exact .refl h

/-- The arms' further work within a command, once. -/
theorem serve_work (h : s.Shaped) : Work s (serve s) :=
  ((((((serveRack_work h).then fun h => serveGrants_work h).then fun h => serveGrants_work h).then fun h => serveGrants_work h).then
    fun h => serveClaims_work h).then fun h => serveStart_work h).then fun h => serveStart_work h

/-! ### The scan -/

theorem reportIf_work {e : Option (AreaCode × Nat)} (h : s.Shaped) : Work s (reportIf e s) := by
  unfold reportIf
  split
  · exact reportArea_work h
  · exact .refl h

theorem writeBareOutcome_work {n e : Nat} {o : PlanOutcome} (h : s.Shaped) (hn : n < slotCount) : Work s (writeBareOutcome n e o s) :=
  writeOutcome_work h hn

theorem advanceExpected_work (h : s.Shaped) : Work s (advanceExpected a s) := .setArm h (h.arm a)

theorem startPlan_work (h : s.Shaped) : Work s (startPlan a s) := by
  unfold startPlan
  split
  · dsimp only; exact (withdrawStandby_work h).then fun h => .modMot h
  · exact .modMot h
  · exact .setResume h
  · exact (leaveRest_work h).then fun h => fetch_work h

theorem takePlan_work {n : Nat} (h : s.Shaped) (hn : n < slotCount) : Work s (takePlan a n s) := by
  have w : Work s (condTag (slotBase n) tagPosted tagTaken s) := condTag_work h (.slot hn)
  unfold takePlan; dsimp only
  refine .ite (fun _ => ?_) (fun _ => w)
  refine (((w.then fun h => Work.modExec h fun _ => ⟨?_, ?_⟩).then fun h => Work.modWr h fun w => w).then
    fun h => advanceExpected_work h).then fun h => startPlan_work h
  · rintro p ⟨⟩; exact hn
  · rintro i ⟨⟩

theorem refuseWithdrawn_work {n : Nat} (h : s.Shaped) (hn : n < slotCount) : Work s (refuseWithdrawn a n s) := by
  unfold refuseWithdrawn; dsimp only
  exact .ite (fun _ => (writeBareOutcome_work h hn).then fun h => advanceExpected_work h) (fun _ => writeBareOutcome_work h hn)

theorem resolveCandidate_work {c : Option Posted} (h : s.Shaped) (hc : ∀ p, c = some p → p.slot < slotCount) :
    Work s (resolveCandidate a c s) := by
  unfold resolveCandidate
  split
  · rename_i p
    exact .ite (fun _ => .refl h) (fun _ => .ite (fun _ => refuseWithdrawn_work h (hc p rfl)) (fun _ => takePlan_work h (hc p rfl)))
  · exact .refl h

theorem refuseStale_work {e : BitVec 16} {p : Posted} (h : s.Shaped) (hn : p.slot < slotCount) : Work s (refuseStale e p s) :=
  .ite (fun _ => writeBareOutcome_work h hn) (fun _ => .refl h)

theorem refuseStales_work {e : BitVec 16} {l : List Posted} (h : s.Shaped) (hl : ∀ p ∈ l, p.slot < slotCount) :
    Work s (l.foldl (fun s p => refuseStale e p s) s) := .foldl l h (fun p hp _ h => refuseStale_work h (hl p hp))

theorem judgeArm_work {l : List Posted} (h : s.Shaped) (hl : ∀ p ∈ l, p.slot < slotCount) : Work s (judgeArm l s a) := by
  have mine : ∀ p ∈ l.filter (fun p => decide (p.arm = a)), p.slot < slotCount := fun p hp => hl p (List.mem_filter.1 hp).1
  unfold judgeArm
  dsimp only
  generalize l.filter (fun p => decide (p.arm = a)) = k at mine ⊢
  refine Work.then (refuseStales_work h mine) fun h => resolveCandidate_work h ?_
  intro p hp
  exact mine p (List.mem_of_find?_eq_some hp)

theorem scanSlots_work (h : s.Shaped) : Work s (scanSlots s) := by
  have posted : ∀ p ∈ (List.range slotCount).filterMap (postingOf s.mem), p.slot < slotCount := by
    intro p hp
    obtain ⟨n, hn, e⟩ := List.mem_filterMap.1 hp
    unfold postingOf at e
    split at e
    · obtain ⟨b, _, rfl⟩ := Option.map_eq_some_iff.1 e
      simpa using hn
    · cases e
  unfold scanSlots; dsimp only
  exact (Work.foldl _ h (fun _ _ _ h => reportIf_work h)).then fun h => .foldl bothArms h (fun _ _ _ h => judgeArm_work h posted)

theorem scanPages_work (h : s.Shaped) : Work s (scanPages s) := by
  unfold scanPages; dsimp only
  refine ((Work.foldl _ h (fun _ _ _ h => reportIf_work h)).then fun h => Work.withView h ?_).then fun h => reconsiderRoom_work h
  intro p hp
  simpa using (List.mem_filter.1 hp).1

theorem scanWait_work (h : s.Shaped) : Work s (scanWait s a) := by
  unfold scanWait
  split
  · exact .ite (fun _ => (abandon_work h).then fun h => endOrWait_work h) (fun _ => .refl h)
  · exact .refl h

end Sys2Proof.Machine
end

