-- ==== Sys2Proof/Laws/Serve.lean ====
section
/-! SUPPORT. A command after which no claim, grant or room is left to be carried on ends where its own effect ends (`serve_settled`), and
what is shown of it is the status block alone (`finish_shown`, `finishArms_shown`). -/

namespace Sys2Proof.Machine

variable {s t : State} {a : Arm}

theorem serveGrant_settled (h : (s.doing a).settled = true) : serveGrant a s = s := by
  unfold serveGrant; split <;> simp_all [Doing.settled]

theorem serveClaim_settled (h : (s.doing a).settled = true) : serveClaim a s = s := by
  unfold serveClaim; split <;> simp_all [Doing.settled]

theorem serveStart_settled (h : (s.doing a).settled = true) : serveStart a s = s := by
  unfold serveStart; split <;> simp_all [Doing.settled]

theorem asksRack_settled (h : (s.doing a).settled = true) : asksRack s a = false := by
  unfold asksRack; split <;> simp_all [Doing.settled]

theorem claims_settled (h : (s.doing a).settled = true) : claims s a = false := by
  unfold claims; split <;> simp_all [Doing.settled]

/-- Where neither arm has a claim, a grant or granted room to carry on, nothing is left to serve. -/
theorem serve_settled (h : ∀ a, (s.doing a).settled = true) : serve s = s := by
  simp [serve, serveRack, serveGrants, serveClaims, asksRack_settled (h .A), asksRack_settled (h .B), claims_settled (h .A),
    serveGrant_settled (h .A), serveGrant_settled (h .B), serveClaim_settled (h .A), serveClaim_settled (h .B),
    serveStart_settled (h .A), serveStart_settled (h .B)]

/-- A command that ends with `finish` answers its effect, with sections of the status block rewritten. -/
theorem finish_shown (h : t.Shaped) : ∃ u, finish s t = .next u ∧ ShownFrom t u := ⟨_, rfl, publish_shown h⟩

/-- A command that ends with `finishArms`, leaving nothing to serve, answers its effect, with sections of the status block rewritten. -/
theorem finishArms_shown (h : t.Shaped) (k : ∀ a, (t.doing a).settled = true) : ∃ u, finishArms s t = .next u ∧ ShownFrom t u := by
  unfold finishArms
  rw [serve_settled k]
  exact ⟨_, rfl, publish_shown h⟩

/-- What an arm is doing is settled once it holds in that arm's record and did in the other's. -/
theorem settled_setArm {r : ArmRec} (h : ∀ b, (s.doing b).settled = true) (hr : r.mot.doing.settled = true) :
    ∀ b, ((s.setArm a r).doing b).settled = true := by
  have hA := h .A
  have hB := h .B
  intro b
  cases a <;> cases b <;> simp_all [State.doing, State.arm, State.setArm, PerArm.get, PerArm.set]

end Sys2Proof.Machine
end

