-- ==== Sys2Proof/Tests/Slice0.lean ====
section
/-! SUPPORT. Tests of the model: ill-formed commands that `wellFormed` refuses, the spec's worked figures, and for every statement of
Certificates/Slice0/Obligations.lean that has hypotheses a concrete state and operands that meet them, by applying the statement to them
(`witness_…`; the source of each figure stands in the docstring or the statement's rules). -/

set_option Elab.async false

namespace Sys2Proof.Tests

open Sys2Proof Sys2Proof.Machine

/-! ### Deciding the shape and what holds between commands -/

def itemSoundB : Item → Bool
  | .updateProbe u => u.orients.all (fun l => decide (l.length ≤ 8)) && u.single.all (fun x => decide (x.1 ≤ 7))
  | .loadMap f => decide (f.nodes.length = f.count)
  | _ => true

def armShapedB (r : ArmRec) : Bool :=
  r.exec.plan.all (fun p => decide (p.slot < slotCount)) && r.exec.item.all itemSoundB &&
    r.wr.chain.all (fun c => decide (c.page < pageCount)) && r.wr.lastKept.all (fun p => decide (p < pageCount))

def shapedB (s : State) : Bool :=
  decide (s.sections.length = 9) && decide (s.zones.length = 8) && decide (s.rack.ports.length = 16) &&
    decide (s.thermal.chans.length = 32) && decide (s.thermal.shownChans.length = 32) && decide (s.probes.length = 32) &&
    s.probes.all (fun p => decide (p.orients.length ≤ 8)) && s.view.all (fun p => decide (p < pageCount)) && armShapedB s.arms.a && armShapedB s.arms.b

def restB (s : State) (a : Arm) : Bool :=
  s.hasPlan a || (decide (s.doing a = .nothing) && (decide ((s.arm a).mot.resume = none) && (s.arm a).mot.state.withoutPlan))

def betweenB (s : State) : Bool :=
  bothArms.all (fun a => (s.doing a).settled && (s.rack.waiter != some a || (s.doing a).waitsRack) &&
    (!(s.arm a).wr.waiting.isSome || (s.doing a).waitsRoom) && (s.doing a).waitState.all (fun st => (s.arm a).mot.state == st) && restB s a &&
    (!(s.device == .stopped || s.device == .starting) || !s.hasPlan a)) &&
  (!s.scanning || s.device == .running) && ((!s.rescan.isSome || s.device == .running) && s.reports.isEmpty)

theorem itemSound_of {i : Item} (h : itemSoundB i = true) : i.sound := by
  cases i <;> simp_all [itemSoundB, Item.sound, Option.all_eq_true]

theorem armShaped_of {r : ArmRec} (h : armShapedB r = true) : r.shaped := by
  simp only [armShapedB, Bool.and_eq_true, Option.all_eq_true, List.all_eq_true, decide_eq_true_eq] at h
  exact ⟨⟨h.1.1.1, fun i hi => itemSound_of (h.1.1.2 i hi)⟩, h.1.2, h.2⟩

theorem sh {s : State} (h : shapedB s = true := by decide +kernel) (n : s.maps.nodes = MapStore.powerOn.nodes := by rfl) : s.Shaped := by
  simp only [shapedB, Bool.and_eq_true, List.all_eq_true, decide_eq_true_eq] at h
  obtain ⟨⟨⟨⟨⟨⟨⟨⟨⟨a, b⟩, c⟩, d⟩, e⟩, f⟩, g⟩, j⟩, k⟩, l⟩ := h
  exact ⟨a, b, c, d, e, f, g, by rw [n]; exact List.length_replicate, j, armShaped_of k, armShaped_of l⟩

theorem bt {s : State} (h : betweenB s = true := by decide +kernel) : s.BetweenCommands := by
  simp only [betweenB, bothArms, restB, List.all_cons, List.all_nil, Bool.and_eq_true, Bool.or_eq_true, Bool.not_eq_true', bne_iff_ne,
    decide_eq_true_eq, beq_iff_eq, ne_eq, Bool.and_true, Bool.or_eq_false_iff, List.isEmpty_iff] at h
  obtain ⟨⟨⟨⟨⟨⟨⟨⟨A1, A2⟩, A3⟩, A6⟩, A4⟩, A5⟩, ⟨⟨⟨⟨B1, B2⟩, B3⟩, B6⟩, B4⟩, B5⟩, C⟩, E, D⟩ := h
  constructor
  · rintro ⟨⟩ <;> assumption
  · rintro ⟨⟩ e <;> simp_all
  · rintro ⟨⟩ e <;> simp_all
  · rintro ⟨⟩ st e <;> simp_all
  · rintro ⟨⟩ e <;> simp_all
  · rintro e ⟨⟩ <;> rcases e with e | e <;> simp_all
  · intro e; simp_all
  · intro e; rw [e] at E; simp_all
  · exact D

/-! ### Deciding where an arm's work goes on -/

def fetchesB (s : State) (a : Arm) (e : Executor) (i : Item) (len : Nat) : Bool :=
  e.plan.any (fun p => tagIs s (slotBase p.slot) tagTaken && (!withdrawSet s.mem p.slot && !headerFails e p)) &&
    (e.stack.isEmpty || tagIs s (slotBase e.slot) tagLibrary) && decide (e.offset ≠ e.slotLen) &&
    decide (decodeItem s.mem e.slot e.offset (e.slotLen - e.offset) = .inr (i, len)) && (!i.isMotion || (s.arm a).scale.homed)

theorem fetch_of {s : State} {a : Arm} {e : Executor} {i : Item} {len : Nat} (h : fetchesB s a e i len = true := by decide +kernel) :
    Fetches s a e i len := by
  simp only [fetchesB, Bool.and_eq_true, Bool.or_eq_true, Option.any_eq_true, Bool.not_eq_true', decide_eq_true_eq, List.isEmpty_iff] at h
  obtain ⟨⟨⟨⟨p, l⟩, m⟩, i⟩, n⟩ := h
  exact ⟨p, l, m, i, fun k => n.resolve_left (by simp [k])⟩

def completingB (s : State) (a : Arm) (i : Item) (len : Nat) : Bool :=
  ((s.arm a).mot.state == .running || (s.arm a).mot.state == .homing) && !(s.arm a).mot.holdPending &&
    fetchesB s a (itemDone (s.arm a).exec) i len

theorem goes {s : State} {a : Arm} {i : Item} {len : Nat} (h : completingB s a i len = true := by decide +kernel) :
    Completing s a i len := by
  simp only [completingB, Bool.and_eq_true, Bool.or_eq_true, Bool.not_eq_true', beq_iff_eq] at h
  exact ⟨h.1.1, h.1.2, fetch_of h.2⟩

theorem calm {s : State} {a : Arm} (h : ((s.arm a).mot.state != .estop && (s.arm a).mot.state != .faulted &&
    !(s.arm a).mot.estopFaulted) = true := by decide +kernel) : s.Unfaulted a := by
  simp only [Bool.and_eq_true, bne_iff_ne, Bool.not_eq_true'] at h
  exact ⟨h.1.1, h.1.2, h.2⟩

theorem free {s : State} {a : Arm} {r : SegReq} (h : (!r.kind.isHome && !r.kind.isProbing && (targetInLimits s a r.target &&
    claimable s.zones a (neededSet s a r) && (refreshFaultOf s a r.kind).isNone)) = true := by decide +kernel) :
    StartsFreely s a r := by
  simp only [Bool.and_eq_true, Bool.not_eq_true', Option.isNone_iff_eq_none] at h
  exact ⟨⟨h.1.1, h.1.2⟩, h.2.1.1, h.2.1.2, h.2.2⟩

theorem probes {s : State} {a : Arm} {r : SegReq} (h : (r.kind.isProbing && (refreshFault s a).isNone && (s.arm a).head.shadow.isNone &&
    (probingStartFault (refresh a s) a r.kind.isLeg).isNone) = true := by decide +kernel) : ProbesFreely s a r := by
  simp only [Bool.and_eq_true, Option.isNone_iff_eq_none] at h
  exact ⟨h.1.1.1, h.1.1.2, h.1.2, h.2⟩

/-- Whether the arm waits for a zone. -/
def waitsZoneB (s : State) (a : Arm) : Bool :=
  match s.doing a with
  | .zoneWait _ _ _ => true
  | _ => false

theorem noWait {s : State} {a : Arm} (h : waitsZoneB s a = false := by decide +kernel) : s.noZoneWait a := by
  intro r n t e; rw [waitsZoneB, e] at h; cases h

theorem ends {s : State} {a : Arm} {p : Plan} (h : (decide ((s.arm a).exec.plan = some p) &&
    ((s.arm a).cap.sample.isNone && decide ((s.arm a).cap.dropped = 0) && decide ((s.arm a).wr.counts.dropped ≤ 65535)) &&
    (decide ((s.arm a).wr.chain = []) && decide (s.rack.holder ≠ some a) && decide ((s.arm a).mot.state ≠ .waking) &&
      decide ((s.arm a).mot.state ≠ .estop))) = true := by decide +kernel) : s.PlanEnds a p := by
  simp only [Bool.and_eq_true, decide_eq_true_eq, Option.isNone_iff_eq_none] at h
  obtain ⟨⟨a1, ⟨b1, b2⟩, b3⟩, ⟨⟨c1, c2⟩, c3⟩, c4⟩ := h
  exact ⟨a1, b1, b2, b3, c1, c2, c3, c4⟩

theorem alone {s : State} {a : Arm} {p : Plan} (h : s.PlanEnds a p := by exact ends)
    (k : (decide (readTag s.mem (slotBase p.slot) = tagTaken) && !waitsZoneB s a.other) = true := by decide +kernel) : s.PlanAlone a p := by
  simp only [Bool.and_eq_true, decide_eq_true_eq, Bool.not_eq_true'] at k
  exact ⟨h, k.1, noWait k.2⟩

theorem one {s : State} {a : Arm} {q : ChainPage} (h : (decide ((s.arm a).wr.chain = [q]) && (decide (q.count ≤ 62) &&
    decide (readTag s.mem (pageBase q.page) = tagFilling))) = true := by decide +kernel) : OnePage s a q := by
  simp only [Bool.and_eq_true, decide_eq_true_eq] at h
  exact ⟨h.1, h.2.1, h.2.2⟩

/-- The command has an answer. -/
def Answers (c : Instr) (s : State) : Prop := ∃ t, Sys2Proof.Machine.exec c s = .next t

theorem ok {c : Instr} {s : State} {P : State → Prop} (h : ∃ t, Sys2Proof.Machine.exec c s = .next t ∧ P t) : Answers c s := h.imp fun _ k => k.1

/-! ### Small states -/

/-- Constants within their ranges: 100 nm per count, soft limits of ±1 m, two zones' worth of half-widths. -/
def consts : Consts :=
  { Consts.powerOn with
    axes := PerArm.both (Axes.all3 { u := 100, following := 50000, accel := 1000000, creep := 2000, alpha := 1150, home := 0,
                                     lower := -1000000000, upper := 1000000000 })
    half := PerArm.both (Axes.all3 1000), zoneWait := 10, lockRetries := 2, rackWait := 30, cyclePeriod := 1000, missLimit := 3, holdLimit := 300
    spreadLimit := 500, rescan := 5
    frame := { a := Axes.all3 { sign := 1, offset := 0 }, b := Axes.all3 { sign := -1, offset := 3000000000 } }
    arms := PerArm.both { maxFeed := 100000, band := 1000, idleTimeout := 5, wakeTime := 1000, qXY := 0, qXZ := 0, qYZ := 0 } }

/-- Slot 0 TAKEN for arm A, 24 bytes of items, a HOME at offset 16; slot 1 LIBRARY with a HOME. -/
def mem0 : Mem :=
  writeBytes (writeBytes (writeBytes (writeBytes [] 0x10000 (leBytes 4 tagTaken ++ [1, 0, 0, 0, 24])) 0x10050 [3, 0, 8])
    0x11000 (leBytes 4 tagLibrary ++ [0, 0, 0, 0, 8])) 0x11040 [3, 0, 8]

def zone0 : Zone := { Zone.blank with inUse := true, box := { lo := ⟨0, 0, 0⟩, hi := ⟨1000000, 1000000, 1000000⟩ }, speedLimit := 50000 }
def zone1 : Zone := { zone0 with box := { lo := ⟨2000000, 0, 0⟩, hi := ⟨3000000, 1000000, 1000000⟩ } }

/-- RUNNING, arm A homed at the origin, arm B far away and idle. -/
def base : State :=
  ({ State.blank false (PerArm.both (Axes.all3 true)) with
    device := .running, inst := consts, mem := mem0, now := 60000000, zones := zone0 :: zone1 :: List.replicate 6 Zone.blank }.modScale .A
      (fun sc => { sc with homed := true })).setArmState .A .idle

def planA : Plan := { slot := 0, seq := 0, len := 24, miss := 1, expiredProbe := 1, expiredTemp := 1 }

/-- Arm A with a plan, doing this, with this item, 16 bytes long. -/
def busy (d : Doing) (i : Option Item := none) : State :=
  (base.modExec .A (fun _ => { Executor.powerOn with plan := some planA, slotLen := 24, item := i, itemLen := 16 })).modMot .A (fun m =>
    { m with state := .running, doing := d, drives := Axes.all3 true })

def handed (i : Item) : State := busy .handed (some i)

/-- A timer of this length that started this many µs ago. -/
def ago (n len : Nat) : Timer := { start := base.now - BitVec.ofNat 48 n, len := len }

def seg (k : SegKind) (p : Vec3) : Segment :=
  { req := { kind := k, target := p, feed := 10000, sweep := [p] }, start := Vec3.zero, effective := 10000
    profile := .path (profileOf (consts.axes.get .A) Vec3.zero p 10000), marked := false, begun := base.now - 1000 }

def flyingSeg (k : SegKind) : State := busy (.inFlight (seg k ⟨1000, 1000, 1000⟩))

/-- Probe 5, a TOUCH probe with one orientation. -/
def probe5 : Probe :=
  { Probe.blank with
    present := true, identity := 77, homePort := 3, speedLimit := 40000, settle := 20, overtravel := 100, qualification := .qualified
    orients := [{ tilt := 0, swivel := 24, offset := ⟨0, -12500, 215000⟩ }] }

def withProbe (s : State) (p : Probe) : State := { s with probes := s.probes.set 5 p }

/-- Probe 5 on arm A's head, READY. -/
def mounted (s : State) (p : Probe) : State :=
  (withProbe s { p with location := .arm .A }).modHead .A (fun h =>
    { h with occ := .probe 5, orient := some (0, 24), supplyOn := true, supplyChecked := true,
             ctx := { index := 5, copy := p, state := .ready, selected := some ⟨0, 24, ⟨0, -12500, 215000⟩⟩ } })

/-- Arm A's change stands at this step of a DROP or PICK of probe 5 at port 3. -/
def changing (st : ChangeStep) (t : Timer) : State :=
  (({ busy (.changing t) (some (.change 5)) with rack := { base.rack with holder := some .A } }).setChange .A
    (some { target := 5, step := st, port := 3, probe := 5, attempts := 1, opened := [], confirm := none }))

/-- Probe 5 on arm A's head, its supply switched off by an overcurrent. -/
def unpowered (s : State) : State :=
  (mounted s probe5).modHead .A (fun h => { h with supplyOn := false, supplyChecked := false, ctx := { h.ctx with state := .unpowered } })

def chg (st : ChangeStep) : Change := { target := 5, step := st, port := 3, probe := 5, attempts := 1, opened := [], confirm := none }
def noCounts : Counts := Axes.all3 0

/-- A trigger edge 500 µs ago: within a segment of `seg`. -/
def anEdge : Edge := { time := base.now - 500, counts := ⟨5, 6, 7⟩ }

/-- An edge at the very moment at which a segment of `seg` began. -/
def lateEdge : Edge := { time := base.now - 1000, counts := ⟨5, 6, 7⟩ }

def aTouch : TouchFields := { target := ⟨0, 0, 5000⟩, touchFeed := 20000, measureFeed := 0, retractFeed := 30000, backoff := 256, retries := 1 }
def aScan : ScanFields := { feed := 5000, period := 1000, lo := 1, hi := 50, maxPoints := 100, waypoints := [⟨0, 0, 5000⟩] }
def page7 : ChainPage := { page := 7, count := 1 }

/-- One FILLING page in arm A's chain, with this many records. -/
def chained (s : State) (n : Nat := 1) : State :=
  { s.modWr .A (fun w => { w with chain := [{ page7 with count := n }], lastKept := if n = 0 then none else some 7 }) with
    mem := writeTag s.mem (pageBase 7) tagFilling }

/-- Arm A with its plan, HELD or FAULTED with this resume point. -/
def held (r : ResumePoint) (i : Option Item := none) : State := (busy .nothing i).modMot .A (fun m => { m with state := .held, resume := some r })
def faulted (f : FaultCode) (r : ResumePoint) (i : Option Item := none) : State :=
  (busy .nothing i).modMot .A (fun m => { m with state := .faulted, lastFault := f, resume := some r })

/-- Arm A in a wait: for zone 0, for the rack, for room. -/
def zoneWaiter (d : Option Timer := none) : State := (busy (.zoneWait (seg .move Vec3.zero).req [0] d)).setArmState .A .zoneWait
def rackWaiter (d : Timer := ago 5 30000000) : State :=
  { busy (.rackWait d) (some (.change 5)) with rack := { base.rack with waiter := some .A, holder := some .B } }.setArmState .A .rackWait
def roomWaiter : State :=
  ((busy .roomWait (some (.touch aTouch))).modWr .A (fun w => { w with waiting := some { n := 1, time := 5 } })).setArmState .A .roomWait

/-- Arm A stands HELD in the change of `changing`, at this resume point. -/
def heldChange (st : ChangeStep) : State :=
  (({ held (.changeStep st) (some (.change 5)) with rack := { base.rack with holder := some .A } }).setChange .A (some (chg st)))

/-- Arm A flies the move of this step of its change. -/
def moving (st : ChangeStep) (p : Port) : State :=
  (({ (flyingSeg .changeMove).modExec .A (fun e => { e with item := some (.change 5) }) with
      rack := { base.rack with holder := some .A, ports := base.rack.ports.set 3 p } } : State).setChange .A (some (chg st)))

/-- In `s` arm B, with the plan of slot 2, does this. -/
def other (s : State) (d : Doing) (st : ArmState) (i : Option Item := none) : State :=
  (s.modExec .B (fun _ => { Executor.powerOn with plan := some { planA with slot := 2 }, slotLen := 24, item := i, itemLen := 16 })).modMot .B
    (fun m => { m with state := st, doing := d, drives := Axes.all3 true })

/-- Arm B waits for the rack with a CHANGE of probe 6, whose port 0 lies at its place. -/
def rackAwaited (s : State) : State :=
  let p : Vec3 := ⟨3000000000, 3000000000, 3000000000⟩
  (other { s with rack := { s.rack with waiter := some .B, ports := s.rack.ports.set 0 { Port.blank with approach := p, dock := p } } }
    (.rackWait (ago 5 30000000)) .rackWait (some (.change 6))).modHead .B (fun h => { h with occ := .empty })

/-- Arm B's zone, away from arm A's place. -/
def zoneB : Zone := { zone0 with box := { lo := ⟨2500000000, 2500000000, 2500000000⟩, hi := ⟨2600000000, 2600000000, 2600000000⟩ } }

def segB (k : SegKind) : SegReq := { (seg k ⟨450000000, 450000000, 450000000⟩).req with kind := k }

/-- Arm A stands HELD with these zones its own; arm B waits for the first of them since 5, with this request and needed set. -/
def awaited (z : List Zone) (r : SegReq) (need : List Nat) : State :=
  other { held .boundary with
    zones := (z.mapIdx fun n x => { x with holder := some .A, waiter := if n = 0 then some .B else none, waitStart := if n = 0 then some 5 else none }) ++
      List.replicate (8 - z.length) Zone.blank } (.zoneWait r need none) .zoneWait

/-- Only the first zone has arm `b` as its waiter. -/
theorem onlyFirst {zs : List Zone} {b : Arm} (h : (zs.drop 1).all (fun z => decide (z.waiter ≠ some b)) = true := by decide +kernel) (j : Nat)
    (y : Zone) (e : zs[j]? = some y) (w : y.waiter = some b) : j = 0 := by
  cases j with
  | zero => rfl
  | succ j =>
    have k : y ∈ zs.drop 1 := List.mem_of_getElem? (i := j) (by rw [List.getElem?_drop, Nat.add_comm]; exact e)
    exact absurd w (of_decide_eq_true (List.all_eq_true.1 h y k))

def emptyHead (s : State) : State := s.modHead .A (fun h => { h with occ := .empty })

/-- Arm A at the last 8 bytes of its items when its item is done. -/
def atLast (s : State) : State := s.modExec .A (fun e => { e with offset := 16 })

/-- A sample whose 1 ms has just passed, with the context copy of its own segment. -/
def aSample : Sample :=
  { counts := noCounts, time := 5, timer := { start := base.now - 1000, len := 1000 }
    ctx := { index := 5, copy := probe5, state := .ready, selected := some ⟨0, 24, ⟨0, -12500, 215000⟩⟩ } }

/-- Arm A in leg 1 of a SCAN with this many points handed on and this sample in flight. -/
def sampling (points : Nat) (x : Option Sample) : State :=
  (chained (mounted (flyingSeg (.leg 1)) { probe5 with kind := .scan })).modCap .A (fun c =>
    { c with item := some (.scan aScan), points := points, sample := x, sampleTimer := some (ago 1000 1000) })

/-- Two PART channels of arm A; the first was last read well at `good`, and the cycle is due. -/
def twoChans (good : Option Stamp) (c : Option Cycle) : State :=
  let chan (n : Nat) (g : Option Stamp) : Chan :=
    { Chan.blank with
      address := n, enabled := true, state := .fresh, value := 3398, lastGood := g, rateLimit := 600, alarmLow := -5000, alarmHigh := 8000
      role := .part .A }
  { base with thermal := { Thermal.powerOn with
      chans := [chan 21 good, chan 22 (some 5)] ++ List.replicate 30 Chan.blank, due := some (ago 1000000 1000000), cycle := c } }

/-- Arm A in this segment of a TOUCH, probe 5 mounted, a page of one record. -/
def touching (k : SegKind) (f : TouchFields) : State :=
  (chained (mounted (flyingSeg k) probe5)).modCap .A (fun c => { c with item := some (.touch f), attempts := 1, ctx := { Context.null with copy := probe5 } })

/-- The same, stopping, with a latch. -/
def hitting (k : SegKind) (f : TouchFields) (st : Stop) : State :=
  ((touching k f).modScale .A (fun sc => { sc with latch := some { counts := ⟨5, 6, 7⟩, time := 9, source := .trigger } })).modMot .A (fun m =>
    { m with stop := some st })

/-- Arm A's DWELL is over; the item after it is fetched. -/
def dwelt : State := busy (.dwelling (ago 5000 5000))

/-- The checks of a fetch that come before the item's own pass for the item after the DWELL. -/
theorem reaches {s : State} {p : Plan} {e : Executor} (h : (decide (e.plan = some p) && decide (readTag s.mem (slotBase p.slot) = tagTaken) &&
    (decide (withdrawSet s.mem p.slot = false) && decide (e.stack = []) && (!e.headerDue && !e.policyDue))) = true := by decide +kernel) :
    FetchReaches s p e := by
  simp only [Bool.and_eq_true, decide_eq_true_eq, Bool.not_eq_true'] at h
  obtain ⟨⟨a1, a2⟩, ⟨b1, b2⟩, c1, c2⟩ := h
  exact ⟨a1, a2, b1, .inl b2, fun k => by simp [c1] at k, fun k => by simp [c2] at k⟩

/-- A map for LOAD_MAP: arm A's pair (X, Y), 2 nodes at the end of the memory. -/
def aMap : LoadMapFields := { arm := 1, i := 1, j := 2, m := 12, count := 2, base := 4094, s0 := 100, nodes := [7, 8] }

/-- Where only the first two channels are enabled, every later one is DISABLED. -/
theorem restOff {s : State} (e : s.thermal.chans.drop 2 = List.replicate 30 Chan.blank := by rfl) :
    ∀ n, 1 < n → n < 32 → (s.chan n).state = .disabled := by
  intro n a b
  obtain ⟨m, rfl⟩ : ∃ m, n = 2 + m := ⟨n - 2, by omega⟩
  have h := List.getElem?_drop (xs := s.thermal.chans) (i := 2) (j := m)
  rw [e, List.getElem?_replicate] at h
  show (s.thermal.chans.getD (2 + m) Chan.blank).state = _
  rw [List.getD_eq_getElem?_getD, ← h]; split <;> rfl

/-! ### Ill-formed commands -/

theorem test_lid_port_16_refused : Instr.wellFormed (.lidReport 16 .opened) = false := by decide
theorem test_lid_port_15_accepted : Instr.wellFormed (.lidReport 15 .opened) = true := by decide
theorem test_occupancy_port_16_refused : Instr.wellFormed (.occupancyReport 16 true) = false := by decide
theorem test_status_port_16_refused : Instr.wellFormed (.rackStatusReply [⟨3, true, .closed⟩, ⟨16, true, .closed⟩]) = false := by decide
theorem test_register_write_refused : Instr.wellFormed (.registerWriteIgnored 0x10 0) = false := by decide

/-! ### Words and the queue -/

/-- No row of the table gives bits, so no word spells a command. -/
theorem test_no_word_spells_a_command : Sys2Proof.decodeTableWord 32 3 = none := by decide

/-- The queue is first in, first out. -/
theorem test_front_first : Sys2Proof.Machine.step { base with pending := [.causeWrite 1, .nudge] } =
    Sys2Proof.Machine.exec (.causeWrite 1) { base with pending := [.nudge] } := rfl

/-! ### The spec's worked figures -/

/-- Section 9.7: the seven rows of the map table. -/
theorem test_map_rows :
    [99999999, 100000000, 100002048, 100001024, 100005120, 100008192, 100008193].map
        (evalDesc [40, -20, 10] (some { s0 := 100000000, m := 12, count := 3, base := 0 })) =
      [(40, true), (40, false), (10, false), (25, false), (-12, false), (10, false), (10, true)] := by decide +kernel

/-- Section 9.7: 10 + round(−7.5) = 2. -/
theorem test_map_tie : evalDesc [40, 10, -20] (some { s0 := 100000000, m := 12, count := 3, base := 0 }) 100005120 = (2, false) := by
  decide +kernel

/-- Section 9.6.1: the inputs of the worked case, part compensation on or off. -/
def workedCase (on : Bool) : ChainIn :=
  let axis (b : Int) : AxisConst :=
    { u := 50, following := 1, accel := 1, creep := 1, alpha := 800, home := 0, lower := 0, upper := b }
  { counts := ⟨24000000, 8000000, 12500000⟩, cref := ⟨1000000, 200000, 500000⟩, axes := Axes.all3 (axis 1)
    limits := { maxFeed := 1, band := 1, idleTimeout := 0, wakeTime := 500, qXY := 2000, qXZ := 0, qYZ := -1500 }
    nodes := List.replicate 274 0 ++ [-1240, -1180] ++ List.replicate 395 0 ++ [310, 290]
    descs := ⟨⟨some { s0 := 0, m := 22, count := 300, base := 0 }, none, none⟩,
              ⟨some { s0 := 0, m := 20, count := 400, base := 300 }, none, none⟩, ⟨none, none, none⟩⟩
    part := { datum := ⟨900000000, 300000000, 450000000⟩, alpha := 1170, on := on }
    dtScale := ⟨2350, 2100, 1877⟩, dtPart := 3400, tip := ⟨0, -12500, 215000⟩, deflection := ⟨0, 0, 0⟩ }

/-- Section 9.6.4: the reported coordinate, no flag. -/
theorem test_worked_case : chain (workedCase true) = (⟨1150011832, 389991372, 600218034⟩, false, false) := by decide +kernel

/-- Section 9.6.4: the same point with part compensation off. -/
theorem test_worked_case_uncorrected : chain (workedCase false) = (⟨1150021778, 389994952, 600224010⟩, false, false) := by decide +kernel

/-- Section 7.11: the back-off point of item 0. -/
theorem test_backoff : backoffComp 256 200000000 150000000 160000000 = 172500000 := by decide +kernel

/-- Section 8.8: the rates of channel 20 in cycles 1, 2, 3 and 5, in mK/min. -/
theorem test_rates : [rateOf 3390 3380 1000000, rateOf 3398 3390 1000000, rateOf 3411 3398 1000000, rateOf 3416 3411 2000000] =
    [600, 480, 780, 150] := by decide +kernel

/-- Section 8.8, cycle 3: 3,410.5 rounds to 3,411. -/
theorem test_group_mean :
    meanValue [{ Chan.blank with value := 3411 }, { Chan.blank with value := 3410 }] = 3411 := by decide +kernel

/-- Section 11.2: the identification word of the revision the manual describes. -/
theorem test_ident : Config.partCode * 0x10000 + Config.revision = 0x4C620001 := by decide

/-! ### Memories in which every tag is known -/

/-- Tag words at `b`, `b + 0x1000`, …, `k` of them: the bytes u 00 v 50. -/
def tagCells (b : Nat) (u v : Byte) : Nat → Mem
  | 0 => []
  | k + 1 => (b + k * 0x1000, u) :: (b + k * 0x1000 + 2, v) :: (b + k * 0x1000 + 3, 0x50) :: tagCells b u v k

theorem tagCells_key {b k : Nat} {u v : Byte} {c : Host.Cell} (h : c ∈ tagCells b u v k) :
    ∃ n i, n < k ∧ c.1 = b + n * 0x1000 + i ∧ (i = 0 ∨ i = 2 ∨ i = 3) := by
  induction k with
  | zero => simp [tagCells] at h
  | succ k ih =>
    simp only [tagCells, List.mem_cons] at h
    rcases h with rfl | rfl | rfl | h
    · exact ⟨k, 0, by omega, rfl, .inl rfl⟩
    · exact ⟨k, 2, by omega, rfl, .inr (.inl rfl)⟩
    · exact ⟨k, 3, by omega, rfl, .inr (.inr rfl)⟩
    · obtain ⟨n, i, hn, e⟩ := ih h; exact ⟨n, i, by omega, e⟩

theorem readByte_tagCells {b n k : Nat} {u v : Byte} (h : n < k) :
    readByte (tagCells b u v k) (b + n * 0x1000) = u ∧ readByte (tagCells b u v k) (b + n * 0x1000 + 1) = 0 ∧
    readByte (tagCells b u v k) (b + n * 0x1000 + 2) = v ∧ readByte (tagCells b u v k) (b + n * 0x1000 + 3) = 0x50 := by
  refine ⟨?_, readByte_of_unlisted fun c hc => by obtain ⟨_, _, _, e, _⟩ := tagCells_key hc; omega, ?_, ?_⟩ <;>
    induction k with
    | zero => omega
    | succ k ih =>
      by_cases e : n = k
      · subst e; simp [tagCells, readByte]
      · rw [tagCells, readByte, if_neg (by omega), readByte, if_neg (by omega), readByte, if_neg (by omega), ih (by omega)]

/-- Slots 1 to 127 FREE and every page tagged 0x504700 and this byte, behind the cells of slot 0. -/
def paged (u : Byte) (l : Mem) : Mem := l ++ (tagCells 0x11000 1 0x4C 127 ++ tagCells 0x100000 u 0x47 512)

/-- The same with every page GIVEN. -/
def known (l : Mem) : Mem := paged 2 l

theorem tag_slot {u : Byte} {l : Mem} {n : Nat} (hl : ∀ c ∈ l, c.1 < 0x11000) (h0 : n ≠ 0) (h : n < slotCount) :
    readTag (paged u l) (slotBase n) = tagFree := by
  simp only [slotCount] at h
  have r (i : Nat) (hi : i < 4) :
      readByte (paged u l) (slotBase n + i) = readByte (tagCells 0x11000 1 0x4C 127) (0x11000 + (n - 1) * 0x1000 + i) := by
    rw [paged, readByte_append_right (fun c hc => by have := hl c hc; simp only [slotBase]; omega),
      readByte_append_left (fun c hc => by obtain ⟨_, _, _, e, _⟩ := tagCells_key hc; simp only [slotBase]; omega)]
    congr 1; simp only [slotBase]; omega
  obtain ⟨e0, e1, e2, e3⟩ := readByte_tagCells (b := 0x11000) (u := 1) (v := 0x4C) (show n - 1 < 127 by omega)
  have f0 := (r 0 (by omega)).trans e0; have f1 := (r 1 (by omega)).trans e1
  have f2 := (r 2 (by omega)).trans e2; have f3 := (r 3 (by omega)).trans e3
  simp only [Nat.add_zero] at f0
  simp only [readTag, readNat, readBytes, Nat.add_assoc, Nat.reduceAdd, f0, f1, f2, f3]; rfl

theorem tag_page {u : Byte} {l : Mem} {n : Nat} (hl : ∀ c ∈ l, c.1 < 0x11000) (h : n < pageCount) :
    readTag (paged u l) (pageBase n) = leNat [u, 0, 0x47, 0x50] := by
  simp only [pageCount] at h
  have r (i : Nat) : readByte (paged u l) (pageBase n + i) = readByte (tagCells 0x100000 u 0x47 512) (0x100000 + n * 0x1000 + i) := by
    rw [paged, readByte_append_right (fun c hc => by have := hl c hc; simp only [pageBase]; omega),
      readByte_append_right (fun c hc => by obtain ⟨_, _, _, e, _⟩ := tagCells_key hc; simp only [pageBase]; omega)]
    rfl
  obtain ⟨e0, e1, e2, e3⟩ := readByte_tagCells (b := 0x100000) (u := u) (v := 0x47) h
  have f0 := (r 0).trans e0; have f1 := (r 1).trans e1; have f2 := (r 2).trans e2; have f3 := (r 3).trans e3
  simp only [Nat.add_zero] at f0
  simp only [readTag, readNat, readBytes, Nat.add_assoc, Nat.reduceAdd, f0, f1, f2, f3]

theorem pages_known {u : Byte} (hu : u = 1 ∨ u = 2) {l : Mem} (hl : ∀ c ∈ l, c.1 < 0x11000) (n : Nat) (h : n < pageCount) : pageError (paged u l) n = none := by
  rw [pageError, tag_page hl h]; rcases hu with rfl | rfl <;> rfl

theorem slots_known {u : Byte} {l : Mem} (hl : ∀ c ∈ l, c.1 < 0x11000) (h0 : slotError (paged u l) 0 = none) (n : Nat) (h : n < slotCount) :
    slotError (paged u l) n = none := by
  by_cases e : n = 0
  · exact e ▸ h0
  · rw [slotError, tag_slot hl e h]; rfl

theorem quiet_slots {u : Byte} {l : Mem} (hl : ∀ c ∈ l, c.1 < 0x11000)
    (h0 : slotError (paged u l) 0 = none ∧ readTag (paged u l) (slotBase 0) ≠ tagPosted) (n : Nat) (h : n < slotCount) :
    slotError (paged u l) n = none ∧ readTag (paged u l) (slotBase n) ≠ tagPosted := by
  refine ⟨slots_known hl h0.1 n h, ?_⟩
  by_cases e : n = 0
  · subst e; exact h0.2
  · rw [tag_slot hl e h]; decide

/-- Slot 0 TAKEN, a HOME at offset 16 of its items. -/
def taken0 : Mem := [(0x10000, 4), (0x10002, 0x4C), (0x10003, 0x50), (0x10050, 3), (0x10052, 8)]

/-- Arm A's MARK waits for room while a scan runs, each page tagged so. -/
def markWaits (u : Byte) : State :=
  { roomWaiter.modExec .A (fun e => { e with item := some (.mark 9) }) with mem := paged u taken0, scanning := true }

theorem quiet_mark {u : Byte} (h : u = 1 ∨ u = 2) : QuietScan (markWaits u) :=
  ⟨rfl, quiet_slots (by simp [taken0]) (by rcases h with rfl | rfl <;> decide +kernel), pages_known h (by simp [taken0])⟩

/-- Slot 0 POSTED for arm A with this withdraw flag and sequence number, 8 bytes of items: a HOME. -/
def posting (w q : Byte) : Mem :=
  [(0x10000, 2), (0x10002, 0x4C), (0x10003, 0x50), (0x10004, 1), (0x10005, w), (0x10006, q), (0x10007, q), (0x10008, 8),
    (0x1000A, 1), (0x1000B, 1), (0x1000C, 1), (0x10040, 3), (0x10042, 8)]

def free0 : Mem := [(0x10000, 1), (0x10002, 0x4C), (0x10003, 0x50)]

def scanned (l : Mem) : State := { base with mem := known l, scanning := true }

def loneB (m : Mem) : Bool := readTag m (slotBase 0) == tagPosted && (slotArm m 0 == some .A && (slotError m 0).isNone)

theorem lone {w q : Byte} (h : loneB (known (posting w q)) = true := by decide +kernel) : LonePosting (scanned (posting w q)) 0 .A := by
  simp only [loneB, Bool.and_eq_true, beq_iff_eq, Option.isNone_iff_eq_none] at h
  have hl : ∀ c ∈ posting w q, c.1 < 0x11000 := by simp [posting]
  refine ⟨rfl, Nat.zero_lt_succ _, h.1, h.2.1, fun k hk n => ?_, slots_known hl h.2.2, pages_known (.inr rfl) hl, fun b => by cases b <;> exact ⟨rfl, rfl⟩⟩
  show readTag (known _) _ ≠ _
  rw [known, tag_slot hl n hk]; decide

/-- Slot 0 is a posting that a scan comes to. -/
theorem first {s : State} {w q : Byte} (m : s.mem = known (posting w q) := by rfl) (c : s.scanning = true := by rfl)
    (h : loneB (known (posting w q)) = true := by decide +kernel)
    (d : BitVec.ofNat 16 (slotSeq s.mem 0) = (s.arm .A).expected := by decide +kernel)
    (v : ∀ b, waits (s.arm b).mot = false ∧ (s.arm b).wr.waiting = none := by rintro ⟨⟩ <;> exact ⟨rfl, rfl⟩) : FirstPosting s 0 .A := by
  have l := lone h
  refine ⟨c, l.slot, m ▸ l.posted, m ▸ l.arm, d, fun k b hk n e => ?_, fun k hk => m ▸ l.slots k hk, fun k hk => m ▸ l.pages k hk, v⟩
  rw [m] at e; exact absurd e (l.others k hk n)

/-- Slot 0 TAKEN with its withdraw flag set. -/
def withdrawn0 : Mem := [(0x10000, 4), (0x10002, 0x4C), (0x10003, 0x50), (0x10005, 1)]

/-- A scan finds the withdraw flag of arm A's plan. -/
def withdrawing (s : State) (u : Byte := 2) : State := { s with mem := paged u withdrawn0, scanning := true }

theorem quiet_withdrawing {s : State} {u : Byte} (h : u = 1 ∨ u = 2 := by decide) : QuietScan (withdrawing s u) :=
  ⟨rfl, quiet_slots (by simp [withdrawn0]) (by rcases h with rfl | rfl <;> decide +kernel), pages_known h (by simp [withdrawn0])⟩

/-- Only slot 0 can be POSTED. -/
theorem posted_zero {u : Byte} {l : Mem} {P : Nat → Prop} (hl : ∀ c ∈ l, c.1 < 0x11000)
    (h0 : readTag (paged u l) (slotBase 0) = tagPosted → P 0) (n : Nat) (h : n < slotCount) (e : readTag (paged u l) (slotBase n) = tagPosted) :
    P n := by
  by_cases k : n = 0
  · subst k; exact h0 e
  · rw [tag_slot hl k h] at e; exact absurd e (by decide)

theorem given_known {s : State} {l : Mem} (hl : ∀ c ∈ l, c.1 < 0x11000) (m : s.mem = known l := by rfl)
    (c : (bothArms.all fun a => (s.arm a).wr.chain.isEmpty) = true := by rfl) : givenPages s = 0 :: List.range' 1 511 := by
  simp only [bothArms, List.all_cons, List.all_nil, Bool.and_true, Bool.and_eq_true, List.isEmpty_iff] at c
  refine (List.filter_eq_self.2 fun p h => ?_).trans (by rw [List.range_eq_range']; rfl)
  rw [m, known, tag_page hl (List.mem_range.1 h), inChain, bothArms, List.any_cons, List.any_cons, c.1, c.2]; rfl

theorem given_none {s : State} {l : Mem} (hl : ∀ c ∈ l, c.1 < 0x11000) (m : s.mem = paged 1 l := by rfl) : givenPages s = [] := by
  refine List.filter_eq_nil_iff.2 fun p h => ?_
  rw [m, tag_page hl (List.mem_range.1 h)]; exact Bool.false_ne_true

/-- An installation block that passes every check (section 11.8): each axis 1 nm per count, soft limits 0 and 1; frames of sign +1; zone 0
in use; the rack zone 0, rack wait 30 s; defaults; split 16/16; maximum feed and band 1, wake time 1,000 ms. -/
def install : Mem :=
  [0x8000, 0x8030, 0x8060, 0x8090, 0x80C0, 0x80F0].flatMap (fun b => [(b, 1), (b + 4, 1), (b + 8, 1), (b + 12, 1), (b + 36, 1)]) ++
  [0x8120, 0x8130, 0x8140, 0x8150, 0x8160, 0x8170].map (fun b => (b, 1)) ++
  [(0x81A0, 1), (0x81A4, 1), (0x8402, 30), (0x8C01, 2)] ++
  [0x8C08, 0x8C28].flatMap (fun b => [(b, 1), (b + 4, 1), (b + 10, 0xE8), (b + 11, 3)])

/-! ### Witnesses: the statements' hypotheses are met -/

theorem witness_every_command (h : Obligations.EveryCommandAnswersNext) : Answers (.loadMap .A) base :=
  ok (h (.loadMap .A) _ sh)

theorem witness_start (h : Obligations.StartEntersStartingOrFails) : Answers .start { base with device := .stopped } :=
  ok ((h.2 _ sh).1)

theorem witness_start_fails (h : Obligations.StartEntersStartingOrFails) :
    Answers (.startValidationComplete .high) { base with device := .starting } :=
  ok ((h.2 _ sh).2 .high .installAxis 0x8000 rfl rfl (by decide +kernel))

theorem witness_start_completes (h : Obligations.StartCompletes) :
    Answers (.startValidationComplete .high) { base with device := .starting, mem := install } :=
  ok (h.2 .high _ sh rfl rfl (by decide +kernel))

theorem witness_stop_outside (h : Obligations.StopBringsToStopped) : Answers .stop { base with device := .stopped } :=
  ok ((h _ sh bt).1 (by decide))

theorem witness_stop (h : Obligations.StopBringsToStopped) : Answers .stop base :=
  ok (((h _ sh bt).2.1 rfl rfl).1 (by rintro ⟨⟩ e <;> exact absurd e (by decide +kernel)))

theorem witness_stop_segment (h : Obligations.StopBringsToStopped) : Answers .stop (flyingSeg .move) :=
  ok (((h _ sh bt).2.1 rfl rfl).1 (by rintro ⟨⟩ e; exacts [⟨⟨_, rfl⟩, rfl⟩, absurd e (by decide +kernel)]))

theorem witness_stop_held (h : Obligations.StopBringsToStopped) : Answers .stop (held .boundary) :=
  ok ((((h _ sh bt).2.1 rfl rfl).2 .A planA rfl).1 rfl rfl rfl rfl alone)

theorem witness_stop_change (h : Obligations.StopBringsToStopped) : Answers .stop (changing .d5 (ago 5 500000)) :=
  ok ((((h _ sh bt).2.1 rfl rfl).2 .A planA rfl).2 _ _ ⟨rfl, rfl⟩ rfl rfl rfl rfl (fun e => absurd e (by decide)) alone)

theorem witness_stop_change_supply (h : Obligations.StopBringsToStopped) :
    Answers .stop ((mounted (changing .p5 (ago 5 20000)) probe5).setChange .A (some { chg .p5 with opened := [3] })) :=
  ok ((((h _ sh bt).2.1 rfl rfl).2 .A planA rfl).2 { chg .p5 with opened := [3] } _ ⟨rfl, rfl⟩ rfl rfl rfl rfl (fun _ => ⟨by decide, 5, rfl⟩) alone)

theorem witness_soft_reset_again (h : Obligations.SoftResetBegins) : Answers .softReset { base with resetting := true } :=
  ok ((h _ sh).2 rfl)

theorem witness_soft_reset_busy (h : Obligations.SoftResetCompletes) :
    Answers .softResetComplete { base with resetting := true, device := .stopping, sections := base.sections.map (fun x => { x with counter := x.counter + 1, busy := true }) } :=
  ok (h _ sh rfl (by rintro ⟨⟩ _ ⟨⟩))

theorem witness_soft_reset_done (h : Obligations.SoftResetCompletes) :
    Answers .softResetComplete (mounted { base with resetting := true } probe5) :=
  ok (h _ sh rfl (by rintro ⟨⟩ _ <;> exact fun e => by cases e))

theorem witness_scan_errors (h : Obligations.ScansRunAndReplaceTheView) : Answers .tagScan { base with mem := [], scanning := true } :=
  ok ((h _ sh).2.2.2.2.1 bt rfl (by rintro ⟨⟩ <;> exact ⟨rfl, rfl⟩) (fun _ _ e => by cases e))

theorem witness_scan_nameless (h : Obligations.ScansRunAndReplaceTheView) :
    Answers .tagScan (scanned [(0x10000, 2), (0x10002, 0x4C), (0x10003, 0x50), (0x10004, 3)]) :=
  ok ((h _ sh).2.2.2.2.1 bt rfl (by rintro ⟨⟩ <;> exact ⟨rfl, rfl⟩) (posted_zero (by simp) fun _ => by decide +kernel))

theorem witness_scan_error_again (h : Obligations.ScansRunAndReplaceTheView) :
    Answers .tagScan { scanned [(0x10000, 9)] with areaCode := .slotTag, areaOffset := 0x10000 } :=
  ok ((h _ sh).2.2.2.2.1 bt rfl (by rintro ⟨⟩ <;> exact ⟨rfl, rfl⟩) (posted_zero (by simp) fun e => absurd e (by decide +kernel)))

theorem witness_scan_view (h : Obligations.ScansRunAndReplaceTheView) : Answers .tagScan (scanned free0) :=
  ok ((h _ sh).2.2.2.1 bt rfl (quiet_slots (by simp [free0]) (by decide +kernel)) (pages_known (.inr rfl) (by simp [free0])) (by rintro ⟨⟩ <;> exact ⟨rfl, rfl⟩))

theorem witness_withdraw_zone_wait (h : Obligations.ScansRunAndReplaceTheView) : Answers .tagScan (withdrawing zoneWaiter) :=
  ok (((h _ sh).2.2.2.2.2 .A planA bt quiet_withdrawing rfl (by decide +kernel) rfl rfl).1 _ _ _ rfl |>.1 alone)

theorem witness_withdraw_zone_wait_sample (h : Obligations.ScansRunAndReplaceTheView) :
    Answers .tagScan (withdrawing (zoneWaiter.modCap .A (fun c => { c with sample := some aSample }))) :=
  ok (((h _ sh).2.2.2.2.2 .A planA bt quiet_withdrawing rfl (by decide +kernel) rfl rfl).1 _ _ _ rfl |>.2 (by decide))

theorem witness_withdraw_rack_wait (h : Obligations.ScansRunAndReplaceTheView) : Answers .tagScan (withdrawing rackWaiter) :=
  ok (((h _ sh).2.2.2.2.2 .A planA bt quiet_withdrawing rfl (by decide +kernel) rfl rfl).2.1 _ rfl rfl alone)

theorem witness_withdraw_room_wait (h : Obligations.ScansRunAndReplaceTheView) : Answers .tagScan (withdrawing roomWaiter 1) :=
  ok (((h _ sh).2.2.2.2.2 .A planA bt quiet_withdrawing rfl (by decide +kernel) rfl rfl).2.2 { n := 1, time := 5 } rfl rfl (by decide +kernel)
    (by rw [given_none (l := withdrawn0) (by simp [withdrawn0])]; decide +kernel) alone)

theorem witness_nudge (h : Obligations.ScansRunAndReplaceTheView) : Answers (.nudge) base :=
  ok ((h _ sh).1)

theorem witness_rescan_due (h : Obligations.ScansRunAndReplaceTheView) :
    Answers (.rescanTimerExpiry) { base with rescan := some (ago 5000 5000) } :=
  ok ((h _ sh).2.1 _ rfl (by decide +kernel))

theorem witness_rescan_early (h : Obligations.ScansRunAndReplaceTheView) :
    Answers (.rescanTimerExpiry) { base with rescan := some (ago 4999 5000) } :=
  ok ((h _ sh).2.2.1 (by rintro _ ⟨⟩; decide +kernel))

theorem witness_take (h : Obligations.ScanTakesThePostedPlan) : Answers .tagScan (scanned (posting 0 0)) :=
  ok (((h.1 _ 0 .A sh bt first).2 rfl (by decide +kernel)).1 .home 8 (.inl rfl) fetch_of)

theorem witness_take_unhomed (h : Obligations.ScanTakesThePostedPlan) :
    Answers .tagScan (((scanned (posting 0 0)).modScale .A (fun c => { c with homed := false })).setArmState .A .unhomed) :=
  ok (((h.1 _ 0 .A sh bt first).2 rfl (by decide +kernel)).1 .home 8 (.inr rfl) fetch_of)

theorem witness_take_standby (h : Obligations.ScanTakesThePostedPlan) :
    Answers .tagScan ((scanned (posting 0 0)).modMot .A (fun m => { m with state := .standby, standby := true })) :=
  ok (((h.1 _ 0 .A sh bt first).2 rfl (by decide +kernel)).2.1 rfl)

theorem witness_take_waking (h : Obligations.ScanTakesThePostedPlan) :
    Answers .tagScan ((scanned (posting 0 0)).modMot .A (fun m => { m with state := .waking, wakeTimer := some (ago 5 1000000) })) :=
  ok (((h.1 _ 0 .A sh bt first).2 rfl (by decide +kernel)).2.2.1 rfl)

theorem witness_take_estop (h : Obligations.ScanTakesThePostedPlan) : Answers .tagScan ((scanned (posting 0 0)).setArmState .A .estop) :=
  ok (((h.1 _ 0 .A sh bt first).2 rfl (by decide +kernel)).2.2.2 rfl)

theorem witness_take_waits (h : Obligations.ScanTakesThePostedPlan) :
    Answers .tagScan { busy (.dwelling (ago 1 5000)) with mem := known (posting 0 0), scanning := true } :=
  ok ((h.1 _ 0 .A sh bt first).1 rfl)

theorem witness_take_conflict (h : Obligations.ScanTakesThePostedPlan) : (takePlan .A 0 base).apart.areaCode = .tagConflict := by
  rw [(h.2 base 0 .A (by decide +kernel)).state]; decide +kernel

theorem witness_park (h : Obligations.ScanParksAndRefuses) : Answers .tagScan (scanned (posting 0 1)) :=
  ok ((h _ 0 .A sh bt lone).1 (by decide +kernel) (by decide +kernel))

theorem witness_stale (h : Obligations.ScanParksAndRefuses) : Answers .tagScan (scanned (posting 0 0x80)) :=
  ok ((h _ 0 .A sh bt lone).2.1 (by decide +kernel))

theorem witness_withdrawn (h : Obligations.ScanParksAndRefuses) : Answers .tagScan (scanned (posting 1 0)) :=
  ok ((h _ 0 .A sh bt lone).2.2 (by decide +kernel) (by decide +kernel) rfl (by decide +kernel))

theorem witness_cause_write (h : Obligations.RegisterWrites) : Answers (.causeWrite 1) { base with cause := 3 } :=
  ok ((h.1 _ sh).1 1)

theorem witness_mask_write (h : Obligations.RegisterWrites) : Answers (.maskWrite 0xFFFFFFFF) base :=
  ok ((h.1 _ sh).2.1 0xFFFFFFFF)

theorem witness_write_ignored (h : Obligations.RegisterWrites) : Answers (.registerWriteIgnored 0x1C 5) base :=
  ok ((h.1 _ sh).2.2.2.1 0x1C 5)

theorem witness_undefined_counted (h : Obligations.RegisterWrites) : Answers .armCmdUndefined base :=
  ok ((h.1 _ sh).2.2.2.2.1)

theorem witness_undefined_resetting (h : Obligations.RegisterWrites) : Answers .armCmdUndefined { base with resetting := true } :=
  ok ((h.1 _ sh).2.2.2.2.1)

theorem witness_rewrite_ends (h : Obligations.SectionRewriteEnds) :
    Answers (.sectionRewriteComplete .mirror) { base with sections := base.sections.set 7 { counter := 3, busy := true, marked := true } } :=
  ok (h .mirror _ sh)

theorem witness_hold_segment (h : Obligations.HoldReachesAnArm) : Answers (.hold .armA) (flyingSeg .move) :=
  ok ((h _ sh bt rfl rfl).1 .A (.inr ⟨.inl rfl, rfl, .inl ⟨_, rfl⟩⟩))

theorem witness_hold_homing (h : Obligations.HoldReachesAnArm) : Answers (.hold .armA) ((flyingSeg (.home [.Z])).setArmState .A .homing) :=
  ok ((h _ sh bt rfl rfl).1 .A (.inr ⟨.inr rfl, rfl, .inl ⟨_, rfl⟩⟩))

theorem witness_hold_dwell (h : Obligations.HoldReachesAnArm) : Answers (.hold .armA) (busy (.dwelling (ago 1 5000))) :=
  ok ((h _ sh bt rfl rfl).1 .A (.inr ⟨.inl rfl, rfl, .inr ⟨_, rfl⟩⟩))

theorem witness_hold_ignored (h : Obligations.HoldReachesAnArm) : Answers (.hold .armB) base :=
  ok ((h _ sh bt rfl rfl).1 .B (.inl rfl))

theorem witness_hold_both (h : Obligations.HoldReachesAnArm) : Answers (.hold .both) (flyingSeg .move) :=
  ok ((h _ sh bt rfl rfl).2.1 (.inr ⟨.inl rfl, rfl, .inl ⟨_, rfl⟩⟩) (.inl rfl))

theorem witness_hold_zone_wait (h : Obligations.HoldReachesAnArm) :
    Answers (.hold .armA) { zoneWaiter with zones := { zone0 with holder := some .B, waiter := some .A, waitStart := some 5 } :: List.replicate 7 Zone.blank } :=
  ok ((((h _ sh bt rfl rfl).2.2 .A rfl).1 (by decide)).1 _ _ (.zones _ _ _ rfl) (by rintro _ ⟨⟩) (by rintro _ ⟨⟩))

theorem witness_hold_rack_wait (h : Obligations.HoldReachesAnArm) : Answers (.hold .armA) rackWaiter :=
  ok ((((h _ sh bt rfl rfl).2.2 .A rfl).1 (by decide)).1 _ _ (.rack _ rfl rfl) (by rintro _ ⟨⟩) (by rintro _ ⟨⟩))

theorem witness_hold_room_wait (h : Obligations.HoldReachesAnArm) : Answers (.hold .armA) roomWaiter :=
  ok ((((h _ sh bt rfl rfl).2.2 .A rfl).1 (by decide)).1 _ _ (.room rfl) (by rintro _ ⟨⟩) (by rintro _ ⟨⟩))

theorem witness_hold_fetched (h : Obligations.HoldReachesAnArm) : Answers (.hold .armA) (handed (.change 5)) :=
  ok ((((h _ sh bt rfl rfl).2.2 .A rfl).1 (by decide)).1 _ _ (.fetched _ rfl rfl) (by rintro _ ⟨⟩) (by rintro _ ⟨⟩; rfl))

theorem witness_hold_shadow_wait (h : Obligations.HoldReachesAnArm) : Answers (.hold .armA) (busy (.shadowWait (seg .pass1 ⟨0, 0, 5000⟩).req)) :=
  ok ((((h _ sh bt rfl rfl).2.2 .A rfl).1 (by decide)).1 _ _ (.shadow _ rfl rfl) (by rintro _ ⟨⟩) (by rintro _ ⟨⟩))

theorem witness_hold_drive_wait (h : Obligations.HoldReachesAnArm) :
    Answers (.hold .armA) (busy (.driveWait (seg (.home [.Y, .X]) Vec3.zero).req 0 (Axes.all3 false) (ago 5 1000000))) :=
  ok ((((h _ sh bt rfl rfl).2.2 .A rfl).1 (by decide)).1 _ _ (.homeDrives _ _ _ _ _ rfl rfl) (by rintro _ ⟨⟩) (by rintro _ ⟨⟩))

theorem witness_hold_last_sample (h : Obligations.HoldReachesAnArm) : Answers (.hold .armA) (busy (.awaitSample (seg (.leg 1) Vec3.zero).req)) :=
  ok ((((h _ sh bt rfl rfl).2.2 .A rfl).1 (by decide)).1 _ _ (.sample _ rfl) (by rintro _ ⟨⟩) (by rintro _ ⟨⟩))

theorem witness_hold_unlock_wait (h : Obligations.HoldReachesAnArm) : Answers (.hold .armA) (changing .p3unlock (ago 5 500000)) :=
  ok ((((h _ sh bt rfl rfl).2.2 .A rfl).1 (by decide)).1 _ _ (.step (chg .p3unlock) _ rfl rfl (by decide) (by decide)) (by rintro _ ⟨⟩)
    (by rintro _ ⟨⟩))

theorem witness_hold_identity (h : Obligations.HoldReachesAnArm) : Answers (.hold .armA) (mounted (changing .p6 (ago 5 100000)) probe5) :=
  ok ((((h _ sh bt rfl rfl).2.2 .A rfl).1 (by decide)).1 _ _ (.supply (chg .p6) _ 5 rfl rfl (.inr rfl) rfl rfl) (by rintro _ ⟨⟩)
    (by rintro _ ⟨⟩))

theorem witness_hold_identity_unsupplied (h : Obligations.HoldReachesAnArm) : Answers (.hold .armA) (unpowered (changing .p6 (ago 5 100000))) :=
  ok ((((h _ sh bt rfl rfl).2.2 .A rfl).1 (by decide)).1 _ _ (.unsupplied (chg .p6) _ 5 rfl rfl rfl rfl rfl) (by rintro _ ⟨⟩)
    (by rintro _ ⟨⟩))

theorem witness_hold_mark (h : Obligations.HoldReachesAnArm) : Answers (.hold .armA) (handed (.mark 9)) :=
  ok ((((h _ sh bt rfl rfl).2.2 .A rfl).1 (by decide)).2.1 (.inl ⟨_, rfl, rfl⟩))

theorem witness_hold_index (h : Obligations.HoldReachesAnArm) : Answers (.hold .armA) (busy (.indexing (ago 5 3000000)) (some (.head 3 4))) :=
  ok ((((h _ sh bt rfl rfl).2.2 .A rfl).1 (by decide)).2.1 (.inr (.inl ⟨_, rfl⟩)))

theorem witness_hold_locating (h : Obligations.HoldReachesAnArm) :
    Answers (.hold .armA) (busy (.locating false (ago 5 20000)) (some (.setLocation 5 (.arm .A)))) :=
  ok ((((h _ sh bt rfl rfl).2.2 .A rfl).1 (by decide)).2.1 (.inr (.inr ⟨_, _, rfl⟩)))

theorem witness_hold_again (h : Obligations.HoldReachesAnArm) :
    Answers (.hold .armA) ((flyingSeg .move).modMot .A (fun m => { m with stop := some { Stop.plain with hold := true } })) :=
  ok (((((h _ sh bt rfl rfl).2.2 .A rfl).1 (by decide)).2.2.1 _ _ rfl rfl).1 (.inl rfl))

theorem witness_hold_aborted (h : Obligations.HoldReachesAnArm) :
    Answers (.hold .armA) ((flyingSeg .move).modMot .A (fun m => { m with stop := some { Stop.plain with ending := some .aborted } })) :=
  ok (((((h _ sh bt rfl rfl).2.2 .A rfl).1 (by decide)).2.2.1 _ _ rfl rfl).1 (.inr (by decide)))

theorem witness_hold_hit (h : Obligations.HoldReachesAnArm) : Answers (.hold .armA) (hitting .pass1 aTouch Stop.plain) :=
  ok (((((h _ sh bt rfl rfl).2.2 .A rfl).1 (by decide)).2.2.1 _ _ rfl rfl).2 rfl rfl |>.1 rfl)

theorem witness_hold_faulting (h : Obligations.HoldReachesAnArm) :
    Answers (.hold .armA) ((flyingSeg .move).modMot .A (fun m => { m with stop := some { Stop.plain with fault := some .driveFault } })) :=
  ok (((((h _ sh bt rfl rfl).2.2 .A rfl).1 (by decide)).2.2.1 _ _ rfl rfl).2 rfl rfl |>.2 (by decide))

theorem witness_hold_ending (h : Obligations.HoldReachesAnArm) : Answers (.hold .armA) (busy (.ending .aborted .none)) :=
  ok ((((h _ sh bt rfl rfl).2.2 .A rfl).1 (by decide)).2.2.2 _ _ rfl)

theorem witness_hold_waking (h : Obligations.HoldReachesAnArm) :
    Answers (.hold .armA) ((busy .nothing).modMot .A (fun m => { m with state := .waking, wakeTimer := some (ago 5 1000000) })) :=
  ok (((h _ sh bt rfl rfl).2.2 .A rfl).2.1 rfl)

theorem witness_hold_held (h : Obligations.HoldReachesAnArm) : Answers (.hold .armA) (held (.dwell 7)) :=
  ok (((h _ sh bt rfl rfl).2.2 .A rfl).2.2 (by decide))

theorem witness_hold_estop (h : Obligations.HoldReachesAnArm) : Answers (.hold .armA) ((held (.dwell 7)).setArmState .A .estop) :=
  ok (((h _ sh bt rfl rfl).2.2 .A rfl).2.2 (by decide))

theorem witness_resume_scale_fault (h : Obligations.ResumeReachesAnArm) : Answers (.resume .armA) (faulted .scaleFault .boundary) :=
  ok ((h _ .A sh bt rfl rfl).1 (.inl ⟨rfl, rfl⟩))

/-- HELD with an ABORT decided and a sample in flight. -/
def endingHeld : State := (busy (.ending .aborted .none)).modMot .A (fun m => { m with state := .held, resume := some .boundary })

theorem witness_resume_ending (h : Obligations.ResumeReachesAnArm) : Answers (.resume .armA) endingHeld :=
  ok ((h _ .A sh bt rfl rfl).1 (.inr ⟨_, _, rfl⟩))

/-- R46: the ABORT taken first decides the outcome; a RESUME that comes before the sample's end leaves it. -/
theorem test_resume_keeps_abort : (resumeArm .A endingHeld).isNone = true := by decide

theorem witness_resume_dwell (h : Obligations.ResumeReachesAnArm) : Answers (.resume .armA) (held (.dwell 7)) :=
  ok ((h _ .A sh bt rfl rfl).2.1 _ ⟨.inl rfl, by rintro _ _ ⟨⟩, rfl⟩)

theorem witness_resume_boundary (h : Obligations.ResumeReachesAnArm) : Answers (.resume .armA) (atLast (held .boundary)) :=
  ok ((h _ .A sh bt rfl rfl).2.2.1 .home 8 ⟨.inl rfl, by rintro _ _ ⟨⟩, rfl⟩ fetch_of)

theorem witness_resume_segment (h : Obligations.ResumeReachesAnArm) :
    Answers (.resume .armA) (faulted .followingError (.segment (seg .move ⟨500000, 0, 0⟩).req)) :=
  ok (((h _ .A sh bt rfl rfl).2.2.2.1 _ (.inl ⟨.inr ⟨rfl, by decide⟩, by rintro _ _ ⟨⟩, rfl⟩)).1 (by decide) free)

theorem witness_resume_segment_drives (h : Obligations.ResumeReachesAnArm) :
    Answers (.resume .armA) ((faulted .followingError (.segment (seg .move ⟨500000, 0, 0⟩).req)).modMot .A (fun m => { m with drives := Axes.all3 false })) :=
  ok (((h _ .A sh bt rfl rfl).2.2.2.1 _ (.inl ⟨.inr ⟨rfl, by decide⟩, by rintro _ _ ⟨⟩, rfl⟩)).1 (by decide) free)

theorem witness_resume_zones (h : Obligations.ResumeReachesAnArm) :
    Answers (.resume .armA) (held (.zones (seg .move ⟨500000, 0, 0⟩).req)) :=
  ok (((h _ .A sh bt rfl rfl).2.2.2.1 _ (.inr ⟨.inl rfl, by rintro _ _ ⟨⟩, rfl⟩)).1 (by decide) free)

theorem witness_resume_change_move (h : Obligations.ResumeReachesAnArm) :
    Answers (.resume .armA) ((heldChange .p1).modMot .A (fun m => { m with resume := some (.segment (seg .changeMove ⟨500000, 0, 0⟩).req) })) :=
  ok (((h _ .A sh bt rfl rfl).2.2.2.1 _ (.inl ⟨.inl rfl, by rintro _ _ ⟨⟩, rfl⟩)).2.1 _ rfl rfl free)

theorem witness_resume_pass (h : Obligations.ResumeReachesAnArm) :
    Answers (.resume .armA) (mounted ((held (.segment (seg .pass1 ⟨500000, 0, 0⟩).req)).modCap .A (fun c => { c with item := some (.touch aTouch) })) probe5) :=
  ok (((h _ .A sh bt rfl rfl).2.2.2.1 _ (.inl ⟨.inl rfl, by rintro _ _ ⟨⟩, rfl⟩)).2.2 (by decide +kernel) (by decide +kernel) probes)

theorem witness_resume_pass_drives (h : Obligations.ResumeReachesAnArm) :
    Answers (.resume .armA) (mounted ((held (.segment (seg .pass1 ⟨500000, 0, 0⟩).req)).modMot .A (fun m => { m with drives := Axes.all3 false })) probe5) :=
  ok (((h _ .A sh bt rfl rfl).2.2.2.1 _ (.inl ⟨.inl rfl, by rintro _ _ ⟨⟩, rfl⟩)).2.2 (by decide +kernel) (by decide +kernel) probes)

theorem witness_resume_home (h : Obligations.ResumeReachesAnArm) : Answers (.resume .armA) (held (.home [.Y, .X])) :=
  ok ((h _ .A sh bt rfl rfl).2.2.2.2.1 .Y [.X] ⟨.inl rfl, by rintro _ _ ⟨⟩, rfl⟩ (by rintro ⟨⟩ <;> rfl) (by decide +kernel) rfl)

theorem witness_resume_room (h : Obligations.ResumeReachesAnArm) : Answers (.resume .armA) (held .room (some (.scan aScan))) :=
  ok (((h _ .A sh bt rfl rfl).2.2.2.2.2.1 ⟨.inl rfl, by rintro _ _ ⟨⟩, rfl⟩ (by decide) (by decide)).1 _ rfl (by decide +kernel) (by decide +kernel))

theorem witness_resume_room_granted (h : Obligations.ResumeReachesAnArm) :
    Answers (.resume .armA) (mounted (chained ((held .room (some (.touch aTouch))).modCap .A (fun c => { c with item := some (.touch aTouch), phase := .room, attempts := 1 }))) probe5) :=
  ok (((h _ .A sh bt rfl rfl).2.2.2.2.2.1 ⟨.inl rfl, by rintro _ _ ⟨⟩, rfl⟩ (by decide) (by decide)).2 _ _ rfl rfl (by decide +kernel) (by decide +kernel) (by decide +kernel) probes)

theorem witness_resume_rack (h : Obligations.ResumeReachesAnArm) :
    Answers (.resume .armA) { held .rack (some (.change 5)) with rack := { base.rack with holder := some .B } } :=
  ok (((h _ .A sh bt rfl rfl).2.2.2.2.2.2.1 ⟨.inl rfl, by rintro _ _ ⟨⟩, rfl⟩).1 rfl)

theorem witness_resume_rack_granted (h : Obligations.ResumeReachesAnArm) :
    Answers (.resume .armA) (emptyHead (withProbe (held .rack (some (.change 5))) probe5)) :=
  ok (((h _ .A sh bt rfl rfl).2.2.2.2.2.2.1 ⟨.inl rfl, by rintro _ _ ⟨⟩, rfl⟩).2 5 (by decide) rfl rfl (by decide) rfl free)

theorem witness_resume_d2 (h : Obligations.ResumeReachesAnArm) : Answers (.resume .armA) (heldChange .d2) :=
  ok (((h _ .A sh bt rfl rfl).2.2.2.2.2.2.2.2.2.2 _ _ ⟨.inl rfl, by rintro _ _ ⟨⟩, rfl⟩ rfl).1 (.inl rfl))

theorem witness_resume_p8 (h : Obligations.ResumeReachesAnArm) : Answers (.resume .armA) (heldChange .p8) :=
  ok (((h _ .A sh bt rfl rfl).2.2.2.2.2.2.2.2.2.2 _ _ ⟨.inl rfl, by rintro _ _ ⟨⟩, rfl⟩ rfl).2.1 (.inr rfl))

theorem witness_resume_d5 (h : Obligations.ResumeReachesAnArm) : Answers (.resume .armA) (heldChange .d5) :=
  ok (((h _ .A sh bt rfl rfl).2.2.2.2.2.2.2.2.2.2 _ _ ⟨.inl rfl, by rintro _ _ ⟨⟩, rfl⟩ rfl).2.2.1 rfl)

theorem witness_resume_d7 (h : Obligations.ResumeReachesAnArm) : Answers (.resume .armA) (heldChange .d7) :=
  ok (((h _ .A sh bt rfl rfl).2.2.2.2.2.2.2.2.2.2 _ _ ⟨.inl rfl, by rintro _ _ ⟨⟩, rfl⟩ rfl).2.2.2.1 rfl (by decide +kernel))

theorem witness_resume_p3 (h : Obligations.ResumeReachesAnArm) : Answers (.resume .armA) (heldChange .p3unlock) :=
  ok (((h _ .A sh bt rfl rfl).2.2.2.2.2.2.2.2.2.2 _ _ ⟨.inl rfl, by rintro _ _ ⟨⟩, rfl⟩ rfl).2.2.2.2.1 (.inr rfl))

theorem witness_resume_p5 (h : Obligations.ResumeReachesAnArm) : Answers (.resume .armA) (heldChange .p5) :=
  ok (((h _ .A sh bt rfl rfl).2.2.2.2.2.2.2.2.2.2 _ _ ⟨.inl rfl, by rintro _ _ ⟨⟩, rfl⟩ rfl).2.2.2.2.2.1.1 rfl)

theorem witness_resume_p6 (h : Obligations.ResumeReachesAnArm) : Answers (.resume .armA) (unpowered (heldChange .p6)) :=
  ok (((h _ .A sh bt rfl rfl).2.2.2.2.2.2.2.2.2.2 _ _ ⟨.inl rfl, by rintro _ _ ⟨⟩, rfl⟩ rfl).2.2.2.2.2.1.2 rfl)

theorem witness_resume_dock (h : Obligations.ResumeReachesAnArm) : Answers (.resume .armA) (heldChange .p2dock) :=
  ok (((h _ .A sh bt rfl rfl).2.2.2.2.2.2.2.2.2.2 _ _ ⟨.inl rfl, by rintro _ _ ⟨⟩, rfl⟩ rfl).2.2.2.2.2.2.1 (.inr rfl) free)

theorem witness_resume_d8 (h : Obligations.ResumeReachesAnArm) : Answers (.resume .armA) (heldChange .d8move) :=
  ok (((h _ .A sh bt rfl rfl).2.2.2.2.2.2.2.2.2.2 _ _ ⟨.inl rfl, by rintro _ _ ⟨⟩, rfl⟩ rfl).2.2.2.2.2.2.2.1 rfl free)

theorem witness_resume_p7 (h : Obligations.ResumeReachesAnArm) : Answers (.resume .armA) (heldChange .p7move) :=
  ok (((h _ .A sh bt rfl rfl).2.2.2.2.2.2.2.2.2.2 _ _ ⟨.inl rfl, by rintro _ _ ⟨⟩, rfl⟩ rfl).2.2.2.2.2.2.2.2.1 rfl free)

theorem witness_resume_p7_again (h : Obligations.ResumeReachesAnArm) : Answers (.resume .armA) (heldChange .p7confirm) :=
  ok (((h _ .A sh bt rfl rfl).2.2.2.2.2.2.2.2.2.2 _ _ ⟨.inl rfl, by rintro _ _ ⟨⟩, rfl⟩ rfl).2.2.2.2.2.2.2.2.2.1 rfl free)

theorem witness_resume_p1 (h : Obligations.ResumeReachesAnArm) : Answers (.resume .armA) (emptyHead (withProbe (heldChange .p1) probe5)) :=
  ok (((h _ .A sh bt rfl rfl).2.2.2.2.2.2.2.2.2.2 _ _ ⟨.inl rfl, by rintro _ _ ⟨⟩, rfl⟩ rfl).2.2.2.2.2.2.2.2.2.2.1 (.inl rfl) rfl (by decide) free)

theorem witness_resume_claim (h : Obligations.ResumeReachesAnArm) :
    Answers (.resume .armA) (emptyHead (withProbe (heldChange .claim) probe5)) :=
  ok (((h _ .A sh bt rfl rfl).2.2.2.2.2.2.2.2.2.2 _ _ ⟨.inl rfl, by rintro _ _ ⟨⟩, rfl⟩ rfl).2.2.2.2.2.2.2.2.2.2.1 (.inr rfl) rfl (by decide) free)

theorem witness_resume_d1 (h : Obligations.ResumeReachesAnArm) :
    Answers (.resume .armA) ((mounted (heldChange .d1) probe5).setChange .A (some { chg .d1 with target := 6 })) :=
  ok (((h _ .A sh bt rfl rfl).2.2.2.2.2.2.2.2.2.2 { chg .d1 with target := 6 } _ ⟨.inl rfl, by rintro _ _ ⟨⟩, rfl⟩ rfl).2.2.2.2.2.2.2.2.2.2.2 5 (.inl rfl) rfl (by decide) free)

theorem witness_resume_item (h : Obligations.ResumeReachesAnArm) :
    Answers (.resume .armA) (faulted .headTimeout .item (some (.head 3 24))) :=
  ok ((h _ .A sh bt rfl rfl).2.2.2.2.2.2.2.1 ⟨.inr ⟨rfl, by decide⟩, by rintro _ _ ⟨⟩, rfl⟩)

theorem witness_resume_touch_missed (h : Obligations.ResumeReachesAnArm) :
    Answers (.resume .armA) (mounted ((faulted .touchMissed .touchAgain (some (.touch aTouch))).modCap .A (fun c => { c with item := some (.touch aTouch), attempts := 2 })) probe5) :=
  ok ((h _ .A sh bt rfl rfl).2.2.2.2.2.2.2.2.1 aTouch ⟨.inr ⟨rfl, by decide⟩, by rintro _ _ ⟨⟩, rfl⟩ rfl (by decide +kernel) (by decide +kernel) probes)

theorem witness_resume_home_done (h : Obligations.ResumeReachesAnArm) : Answers (.resume .armA) (held (.home []) (some .home)) :=
  ok ((h _ .A sh bt rfl rfl).2.2.2.2.2.2.2.2.2.1 .home 8 ⟨.inl rfl, by rintro _ _ ⟨⟩, rfl⟩ noWait goes)

theorem witness_abort_segment (h : Obligations.AbortReachesAnArm) : Answers (.abort .armA) (flyingSeg .move) :=
  ok ((h _ .A sh bt rfl rfl).1 _ rfl rfl rfl)

theorem witness_abort_ignored (h : Obligations.AbortReachesAnArm) : Answers (.abort .armB) base :=
  ok ((h _ .B sh bt rfl rfl).2.1 rfl)

theorem witness_abort_held_sample (h : Obligations.AbortReachesAnArm) :
    Answers (.abort .armA) ((held (.segment (seg (.leg 1) ⟨1000, 1000, 1000⟩).req)).modCap .A (fun c => { c with sample := some aSample })) :=
  ok ((h _ .A sh bt rfl rfl).2.2.1 _ rfl rfl rfl (by rintro _ ⟨⟩) rfl (.inl rfl) (by decide))

theorem witness_abort_faulted_sample (h : Obligations.AbortReachesAnArm) :
    Answers (.abort .armA) ((faulted .supplyFault (.segment (seg (.leg 1) ⟨1000, 1000, 1000⟩).req)).modCap .A (fun c => { c with sample := some aSample })) :=
  ok ((h _ .A sh bt rfl rfl).2.2.1 _ rfl rfl rfl (by rintro _ ⟨⟩) rfl (.inr rfl) (by decide))

/-- Arm A with its plan in ESTOP, at an item boundary; `faulted`: it was FAULTED at the assertion. -/
def inEstop (faulted : Bool) : State :=
  { (held .boundary).modMot .A (fun m => { m with state := .estop, estopFaulted := faulted, lastFault := .lidJam }) with estop := true }

theorem witness_abort_estop (h : Obligations.AbortReachesAnArm) : Answers (.abort .armA) (inEstop false) :=
  ok ((h _ .A sh bt rfl rfl).2.2.2.1 planA rfl rfl rfl rfl alone)

theorem witness_abort_estop_faulted (h : Obligations.AbortReachesAnArm) : Answers (.abort .armA) (inEstop true) :=
  ok ((h _ .A sh bt rfl rfl).2.2.2.1 planA rfl rfl rfl rfl alone)

/-- R69: an arm FAULTED at the assertion whose plan has ended in ESTOP leaves it, with the plan it has then, for FAULTED. -/
theorem test_estop_fault_outlasts_plan :
    ((leaveEstop .A ((leavePlan .A (inEstop true)).setResume .A (some .boundary))).arm .A).mot.state = .faulted := by decide

theorem witness_abort_held (h : Obligations.AbortReachesAnArm) : Answers (.abort .armA) (held .boundary) :=
  ok (((h _ .A sh bt rfl rfl).2.2.2.2.1 planA rfl rfl rfl (.inl rfl)).1 alone)

theorem witness_abort_faulted (h : Obligations.AbortReachesAnArm) : Answers (.abort .armA) (faulted .lidJam .boundary) :=
  ok (((h _ .A sh bt rfl rfl).2.2.2.2.1 planA rfl rfl rfl (.inr rfl)).1 alone)

theorem witness_abort_page (h : Obligations.AbortReachesAnArm) : Answers (.abort .armA) (chained (held .boundary)) :=
  ok ((((h _ .A sh bt rfl rfl).2.2.2.2.1 planA rfl rfl rfl (.inl rfl)).2.2.2 _ rfl (by decide +kernel) alone).1 (by decide))

theorem witness_abort_change (h : Obligations.AbortReachesAnArm) : Answers (.abort .armA) (changing .d5 (ago 5 500000)) :=
  ok ((h _ .A sh bt rfl rfl).2.2.2.2.2 planA _ _ ⟨rfl, rfl⟩ rfl rfl rfl rfl (fun e => absurd e (by decide)) alone)

theorem witness_abort_change_supply (h : Obligations.AbortReachesAnArm) :
    Answers (.abort .armA) ((mounted (changing .p6 (ago 5 20000)) probe5).setChange .A (some { chg .p6 with opened := [3] })) :=
  ok ((h _ .A sh bt rfl rfl).2.2.2.2.2 planA { chg .p6 with opened := [3] } _ ⟨rfl, rfl⟩ rfl rfl rfl rfl (fun _ => ⟨by decide, 5, rfl⟩) alone)

theorem witness_abort_unwritten (h : Obligations.AbortReachesAnArm) :
    Answers (.abort .armA) { held .boundary with mem := writeTag mem0 (slotBase 0) tagPosted } :=
  ok (((h _ .A sh bt rfl rfl).2.2.2.2.1 planA rfl rfl rfl (.inl rfl)).2.1 ends (by decide +kernel) noWait)

theorem witness_abort_unwritten_again (h : Obligations.AbortReachesAnArm) :
    Answers (.abort .armA) { faulted .lidJam .boundary with mem := [], areaCode := .tagConflict, areaOffset := 0x10000 } :=
  ok (((h _ .A sh bt rfl rfl).2.2.2.2.1 planA rfl rfl rfl (.inr rfl)).2.1 ends (by decide +kernel) noWait)

theorem witness_release_nothing (h : Obligations.AbortReachesAnArm) : Answers (.abort .armA) (awaited [zone0] (segB .move) [0]) :=
  ok ((((h _ .A sh bt rfl rfl).2.2.2.2.1 planA rfl rfl rfl (.inl rfl)).2.2.1 _ _ _ ends (by decide +kernel) rfl).1 (by decide +kernel))

theorem witness_release_grants (h : Obligations.AbortReachesAnArm) : Answers (.abort .armA) (awaited [zoneB] (segB .move) [0]) :=
  ok (((((h _ .A sh bt rfl rfl).2.2.2.2.1 planA rfl rfl rfl (.inl rfl)).2.2.1 _ _ _ ends (by decide +kernel) rfl).2.1 (by decide +kernel) (by decide +kernel) (by decide +kernel)).1 rfl free)

theorem witness_release_grants_pass (h : Obligations.AbortReachesAnArm) :
    Answers (.abort .armA) ((withProbe (awaited [zoneB] (segB .pass1) [0]) { probe5 with location := .arm .B }).modHead .B (fun h => { h with occ := .probe 5, orient := some (0, 24), supplyOn := true, supplyChecked := true, ctx := { index := 5, copy := probe5, state := .ready, selected := none } })) :=
  ok (((((h _ .A sh bt rfl rfl).2.2.2.2.1 planA rfl rfl rfl (.inl rfl)).2.2.1 _ _ _ ends (by decide +kernel) rfl).2.1 (by decide +kernel) (by decide +kernel) (by decide +kernel)).2 probes)

theorem witness_release_moves_waiter (h : Obligations.AbortReachesAnArm) :
    Answers (.abort .armA) (awaited [zoneB, zone0] (segB .move) [0, 1]) :=
  ok ((((h _ .A sh bt rfl rfl).2.2.2.2.1 planA rfl rfl rfl (.inl rfl)).2.2.1 _ _ _ ends (by decide +kernel) rfl).2.2 (by decide +kernel) 1 0 _ 5 rfl rfl rfl onlyFirst (by decide) (by decide +kernel) (by decide +kernel))

theorem witness_hold_stopped (h : Obligations.ArmCommandsOutsideRunning) : Answers (.hold .both) { base with device := .stopped } :=
  ok (((h .both _ sh bt).2 rfl (by decide +kernel)).1)

theorem witness_hold_resetting (h : Obligations.ArmCommandsOutsideRunning) : Answers (.hold .both) { base with resetting := true } :=
  ok (((h .both _ sh bt).1 rfl).1)

/-- Arm A in this segment, stopping. -/
def stopping (k : SegKind) (st : Stop) : State := (flyingSeg k).modMot .A (fun m => { m with stop := some st })

theorem witness_rest_hold (h : Obligations.StoppedArmComesToRest) :
    Answers (.armAtRest .A noCounts) (stopping .move { Stop.plain with hold := true }) :=
  ok ((((h _ .A noCounts _ _ sh bt rfl rfl).1 (.inl rfl)).2.1 rfl rfl).1 rfl rfl (by decide))

theorem witness_rest_home_marked (h : Obligations.StoppedArmComesToRest) :
    Answers (.armAtRest .A noCounts) ((busy (.inFlight { seg (.home [.Y, .X]) Vec3.zero with marked := true })).modMot .A (fun m =>
      { m with state := .homing, stop := some { Stop.plain with hold := true } })) :=
  ok ((((h _ .A noCounts _ _ sh bt rfl rfl).1 (.inl rfl)).2.1 rfl rfl).1 rfl rfl (by decide))

theorem witness_rest_fault (h : Obligations.StoppedArmComesToRest) :
    Answers (.armAtRest .A noCounts) (stopping .move { Stop.plain with fault := some .driveFault }) :=
  ok ((((h _ .A noCounts _ _ sh bt rfl rfl).1 (.inl rfl)).2.1 rfl rfl).2.1 _ rfl calm)

theorem witness_rest_home_fault (h : Obligations.StoppedArmComesToRest) :
    Answers (.armAtRest .A noCounts) (stopping (.home [.Z, .Y, .X]) { Stop.plain with fault := some .followingError }) :=
  ok ((((h _ .A noCounts _ _ sh bt rfl rfl).1 (.inl rfl)).2.1 rfl rfl).2.1 _ rfl calm)

theorem witness_rest_estop (h : Obligations.StoppedArmComesToRest) :
    Answers (.armAtRest .A noCounts) { (stopping .move { Stop.plain with drivesOff := true }).setArmState .A .estop with estop := true } :=
  ok ((((h _ .A noCounts _ _ sh bt rfl rfl).1 (.inl rfl)).2.1 rfl rfl).2.2 rfl)

theorem witness_rest_estop_released (h : Obligations.StoppedArmComesToRest) :
    Answers (.armAtRest .A noCounts) ((stopping .move { Stop.plain with drivesOff := true }).setArmState .A .estop) :=
  ok ((((h _ .A noCounts _ _ sh bt rfl rfl).1 (.inl rfl)).2.1 rfl rfl).2.2 rfl)

theorem witness_rest_estop_scale_fault (h : Obligations.StoppedArmComesToRest) :
    Answers (.armAtRest .A noCounts) ((stopping .move { Stop.plain with fault := some .scaleFault, drivesOff := true }).setArmState .A .estop) :=
  ok ((((h _ .A noCounts _ _ sh bt rfl rfl).1 (.inl rfl)).2.1 rfl rfl).2.2 rfl)

theorem witness_rest_estop_fault (h : Obligations.StoppedArmComesToRest) :
    Answers (.armAtRest .A noCounts) { (stopping .move { Stop.plain with fault := some .driveFault, drivesOff := true }).setArmState .A .estop with
      estop := true } :=
  ok ((((h _ .A noCounts _ _ sh bt rfl rfl).1 (.inl rfl)).2.1 rfl rfl).2.2 rfl)

theorem witness_rest_reset (h : Obligations.StoppedArmComesToRest) :
    Answers (.armAtRest .A noCounts) (hitting .pass1 aTouch { Stop.plain with hold := true, reset := true }) :=
  ok (((h _ .A noCounts _ _ sh bt rfl rfl).1 (.inr (.inr (.inl rfl)))).1 rfl)

theorem witness_rest_ends (h : Obligations.StoppedArmComesToRest) :
    Answers (.armAtRest .A noCounts) (stopping .move { Stop.plain with ending := some .aborted }) :=
  ok ((((h _ .A noCounts _ _ sh bt rfl rfl).1 (.inl rfl)).2.2 _ rfl rfl (.inl rfl)).1 planA (by decide) alone)

theorem witness_rest_ends_fault (h : Obligations.StoppedArmComesToRest) :
    Answers (.armAtRest .A noCounts) (stopping .move { Stop.plain with ending := some .stopped, fault := some .driveFault }) :=
  ok ((((h _ .A noCounts _ _ sh bt rfl rfl).1 (.inl rfl)).2.2 _ rfl rfl (.inr rfl)).1 planA (by decide) alone)

theorem witness_rest_ends_estop (h : Obligations.StoppedArmComesToRest) :
    Answers (.armAtRest .A noCounts) { (stopping .move { Stop.plain with ending := some .stopped, drivesOff := true }).setArmState .A .estop with
      estop := true } :=
  ok ((((h _ .A noCounts _ _ sh bt rfl rfl).1 (.inl rfl)).2.2 _ rfl rfl (.inr rfl)).2.1 planA rfl alone)

theorem witness_rest_ends_estop_released (h : Obligations.StoppedArmComesToRest) :
    Answers (.armAtRest .A noCounts) ((stopping .move { Stop.plain with ending := some .stopped, drivesOff := true }).setArmState .A .estop) :=
  ok ((((h _ .A noCounts _ _ sh bt rfl rfl).1 (.inl rfl)).2.2 _ rfl rfl (.inr rfl)).2.1 planA rfl alone)

theorem witness_rest_ends_sample (h : Obligations.StoppedArmComesToRest) :
    Answers (.armAtRest .A noCounts) ((sampling 3 (some aSample)).modMot .A (fun m => { m with stop := some { Stop.plain with ending := some .aborted } })) :=
  ok ((((h _ .A noCounts _ _ sh bt rfl rfl).1 (.inl rfl)).2.2 _ rfl rfl (.inl rfl)).2.2 (by decide) (by decide))

theorem witness_rest_ends_hit (h : Obligations.StoppedArmComesToRest) :
    Answers (.armAtRest .A noCounts) ((hitting .pass1 { aTouch with measureFeed := 2000 } { Stop.plain with ending := some .aborted }).modWr .A
      (fun w => { w with chain := [] })) :=
  ok ((((h _ .A noCounts _ _ sh bt rfl rfl).1 (.inr (.inr (.inr ⟨by decide, rfl, _, rfl, by decide⟩)))).2.2 _ rfl rfl (.inl rfl)).1 planA (by decide) alone)

theorem witness_rest_latch (h : Obligations.StoppedArmComesToRest) :
    Answers (.armAtRest .A noCounts) (hitting .retractEnd aTouch { Stop.plain with hold := true }) :=
  ok ((((h _ .A noCounts _ _ sh bt rfl rfl).1 (.inr (.inl rfl))).2.1 rfl rfl).1 rfl rfl (by decide))

theorem witness_rest_point (h : Obligations.StoppedArmComesToRest) : Answers (.armAtRest .A noCounts) (hitting .pass1 aTouch Stop.plain) :=
  ok (((((h _ .A noCounts _ _ sh bt rfl rfl).2 _ _ rfl rfl rfl rfl).2 planA page7 (.inr rfl) rfl one).1 rfl).2 rfl rfl (by decide) free)

theorem witness_rest_point_held (h : Obligations.StoppedArmComesToRest) :
    Answers (.armAtRest .A noCounts) (hitting .pass2 { aTouch with measureFeed := 2000 } { Stop.plain with hold := true }) :=
  ok (((((h _ .A noCounts _ _ sh bt rfl rfl).2 _ _ rfl rfl rfl rfl).2 planA page7 (.inl rfl) rfl one).1 rfl).1.1 rfl rfl (by decide))

theorem witness_rest_point_fault (h : Obligations.StoppedArmComesToRest) :
    Answers (.armAtRest .A noCounts) (hitting .pass1 aTouch { Stop.plain with fault := some .supplyFault }) :=
  ok (((((h _ .A noCounts _ _ sh bt rfl rfl).2 _ _ rfl rfl rfl rfl).2 planA page7 (.inr rfl) rfl one).1 rfl).1.2.1 _ rfl calm)

theorem witness_rest_point_estop (h : Obligations.StoppedArmComesToRest) :
    Answers (.armAtRest .A noCounts) ((hitting .pass1 aTouch { Stop.plain with drivesOff := true }).setArmState .A .estop) :=
  ok (((((h _ .A noCounts _ _ sh bt rfl rfl).2 _ _ rfl rfl rfl rfl).2 planA page7 (.inr rfl) rfl one).1 rfl).1.2.2 rfl)

theorem witness_rest_point_ends (h : Obligations.StoppedArmComesToRest) :
    Answers (.armAtRest .A noCounts) (hitting .pass1 aTouch { Stop.plain with ending := some .aborted }) :=
  ok ((((h _ .A noCounts _ _ sh bt rfl rfl).2 _ _ rfl rfl rfl rfl).2 planA page7 (.inr rfl) rfl one).2 _ rfl (.inl rfl) (by decide) (by decide) alone)

theorem witness_estop_idle (h : Obligations.EmergencyStop) : Answers .estopAssert base :=
  ok ((h _ sh bt).1 _ _ (.unplanned rfl (by decide)) (.unplanned rfl (by decide)))

theorem witness_estop_again (h : Obligations.EmergencyStop) : Answers .estopAssert ((base.setArmState .A .estop).setArmState .B .estop) :=
  ok ((h _ sh bt).1 _ _ (.stays rfl) (.stays rfl))

theorem witness_estop_flying (h : Obligations.EmergencyStop) : Answers .estopAssert (flyingSeg .move) :=
  ok ((h _ sh bt).1 _ _ (.flying _ rfl (by decide)) (.unplanned rfl (by decide)))

theorem witness_estop_working (h : Obligations.EmergencyStop) : Answers .estopAssert (handed (.mark 9)) :=
  ok ((h _ sh bt).1 _ _ (.working rfl (by decide) (.inl ⟨_, rfl, rfl⟩)) (.unplanned rfl (by decide)))

theorem witness_estop_locating (h : Obligations.EmergencyStop) :
    Answers .estopAssert (busy (.locating true (ago 5 100000)) (some (.setLocation 5 (.arm .A)))) :=
  ok ((h _ sh bt).1 _ _ (.working rfl (by decide) (.inr ⟨_, _, rfl⟩)) (.unplanned rfl (by decide)))

theorem witness_estop_held (h : Obligations.EmergencyStop) : Answers .estopAssert (held (.dwell 7)) :=
  ok ((h _ sh bt).1 _ _ (.stands _ _ rfl (by decide) (.standing rfl)) (.unplanned rfl (by decide)))

theorem witness_estop_faulted (h : Obligations.EmergencyStop) : Answers .estopAssert (faulted .lidJam .boundary) :=
  ok ((h _ sh bt).1 _ _ (.stands _ _ rfl (by decide) (.standing rfl)) (.unplanned rfl (by decide)))

theorem witness_estop_fetched (h : Obligations.EmergencyStop) : Answers .estopAssert (handed (.move ⟨0, 0, 0⟩ 5)) :=
  ok ((h _ sh bt).1 _ _ (.stands _ _ rfl (by decide) (.fetched _ rfl rfl)) (.unplanned rfl (by decide)))

theorem witness_estop_dwell (h : Obligations.EmergencyStop) : Answers .estopAssert (busy (.dwelling (ago 1 5000))) :=
  ok ((h _ sh bt).1 _ _ (.stands _ _ rfl (by decide) (.dwell _ rfl)) (.unplanned rfl (by decide)))

theorem witness_estop_zones (h : Obligations.EmergencyStop) :
    Answers .estopAssert { zoneWaiter with zones := { zone0 with holder := some .B, waiter := some .A, waitStart := some 5 } :: List.replicate 7 Zone.blank } :=
  ok ((h _ sh bt).1 _ _ (.stands _ _ rfl (by decide) (.zones _ _ _ rfl)) (.unplanned rfl (by decide)))

theorem witness_estop_rack (h : Obligations.EmergencyStop) : Answers .estopAssert rackWaiter :=
  ok ((h _ sh bt).1 _ _ (.stands _ _ rfl (by decide) (.rack _ rfl rfl)) (.unplanned rfl (by decide)))

theorem witness_estop_room (h : Obligations.EmergencyStop) : Answers .estopAssert roomWaiter :=
  ok ((h _ sh bt).1 _ _ (.stands _ _ rfl (by decide) (.room rfl)) (.unplanned rfl (by decide)))

theorem witness_estop_index (h : Obligations.EmergencyStop) : Answers .estopAssert (busy (.indexing (ago 5 3000000)) (some (.head 3 4))) :=
  ok ((h _ sh bt).1 _ _ (.stands _ _ rfl (by decide) (.index _ rfl)) (.unplanned rfl (by decide)))

theorem witness_estop_shadow (h : Obligations.EmergencyStop) :
    Answers .estopAssert (busy (.shadowWait (seg .pass1 ⟨1000, 1000, 1000⟩).req)) :=
  ok ((h _ sh bt).1 _ _ (.stands _ _ rfl (by decide) (.shadow _ rfl rfl)) (.unplanned rfl (by decide)))

theorem witness_estop_drives (h : Obligations.EmergencyStop) :
    Answers .estopAssert (busy (.driveWait (seg .move ⟨1000, 1000, 1000⟩).req 10000 ⟨true, true, false⟩ (ago 5 1000000))) :=
  ok ((h _ sh bt).1 _ _ (.stands _ _ rfl (by decide) (.drives _ _ _ _ rfl rfl)) (.unplanned rfl (by decide)))

theorem witness_estop_home_drives (h : Obligations.EmergencyStop) :
    Answers .estopAssert (busy (.driveWait (seg (.home [.Z]) ⟨0, 0, 0⟩).req 0 ⟨true, true, false⟩ (ago 5 1000000))) :=
  ok ((h _ sh bt).1 _ _ (.stands _ _ rfl (by decide) (.homeDrives _ [.Z] _ _ _ rfl rfl)) (.unplanned rfl (by decide)))

theorem witness_estop_sample (h : Obligations.EmergencyStop) :
    Answers .estopAssert (busy (.awaitSample (seg (.leg 1) ⟨1000, 1000, 1000⟩).req) (some (.scan aScan))) :=
  ok ((h _ sh bt).1 _ _ (.stands _ _ rfl (by decide) (.sample _ rfl)) (.unplanned rfl (by decide)))

theorem witness_estop_step (h : Obligations.EmergencyStop) : Answers .estopAssert (changing .p3unlock (ago 5 500000)) :=
  ok ((h _ sh bt).1 _ _ (.stands _ _ rfl (by decide) (.step (chg .p3unlock) _ rfl rfl (by decide) (by decide))) (.unplanned rfl (by decide)))

theorem witness_estop_supply (h : Obligations.EmergencyStop) : Answers .estopAssert (mounted (changing .p6 (ago 5 100000)) probe5) :=
  ok ((h _ sh bt).1 _ _ (.stands _ _ rfl (by decide) (.supply (chg .p6) _ 5 rfl rfl (.inr rfl) rfl rfl)) (.unplanned rfl (by decide)))

theorem witness_estop_identity_unsupplied (h : Obligations.EmergencyStop) : Answers .estopAssert (unpowered (changing .p6 (ago 5 100000))) :=
  ok ((h _ sh bt).1 _ _ (.stands _ _ rfl (by decide) (.unsupplied (chg .p6) _ 5 rfl rfl rfl rfl rfl)) (.unplanned rfl (by decide)))

theorem witness_estop_arm_b (h : Obligations.EmergencyStop) :
    Answers .estopAssert (((flyingSeg .move).modExec .B (fun e => { e with plan := some { planA with slot := 2 } })).modMot .B (fun m => { m with state := .held, resume := some .boundary })) :=
  ok ((h _ sh bt).1 _ _ (.flying _ rfl (by decide)) (.stands _ _ rfl (by decide) (.standing rfl)))

theorem witness_estop_release (h : Obligations.EmergencyStop) :
    Answers .estopRelease { (base.setArmState .A .estop).setArmState .B .estop with estop := true } :=
  ok ((h _ sh bt).2 (by rintro ⟨⟩ <;> exact ⟨rfl, by rintro _ _ ⟨⟩⟩))

theorem witness_estop_release_plan (h : Obligations.EmergencyStop) :
    Answers .estopRelease { ((held .boundary).setArmState .A .estop).setArmState .B .estop with estop := true } :=
  ok ((h _ sh bt).2 (by rintro ⟨⟩ <;> exact ⟨rfl, by rintro _ _ ⟨⟩⟩))

theorem witness_estop_release_faulted (h : Obligations.EmergencyStop) :
    Answers .estopRelease { ((held .boundary).modMot .A (fun m => { m with state := .estop, estopFaulted := true })).setArmState .B .estop with estop := true } :=
  ok ((h _ sh bt).2 (by rintro ⟨⟩ <;> exact ⟨rfl, by rintro _ _ ⟨⟩⟩))

theorem witness_idle_in_reset (h : Obligations.IdleAndWake) :
    Answers (.idleTimerExpiry .A) (({ base with resetting := true, device := .stopping } : State).modMot .A (fun m => { m with idleTimer := some (ago 5000000 5000000) })) :=
  ok (((h _ .A sh bt).1 _ rfl rfl).1 (by decide +kernel))

theorem witness_idle_due (h : Obligations.IdleAndWake) :
    Answers (.idleTimerExpiry .A) (base.modMot .A (fun m => { m with idleTimer := some (ago 5000000 5000000) })) :=
  ok (((h _ .A sh bt).1 _ rfl rfl).1 (by decide +kernel))

theorem witness_idle_early (h : Obligations.IdleAndWake) :
    Answers (.idleTimerExpiry .A) (base.modMot .A (fun m => { m with idleTimer := some (ago 4999999 5000000) })) :=
  ok (((h _ .A sh bt).1 _ rfl rfl).2 (by decide +kernel))

theorem witness_wake_idle (h : Obligations.IdleAndWake) :
    Answers (.wakeTimerExpiry .A) (base.modMot .A (fun m => { m with state := .waking, wakeTimer := some (ago 1000000 1000000), holdPending := false })) :=
  ok (((h _ .A sh bt).2 _ rfl rfl).1 (by decide +kernel) |>.1 rfl)

theorem witness_wake_fetch (h : Obligations.IdleAndWake) :
    Answers (.wakeTimerExpiry .A) (((busy .nothing).modExec .A (fun e => { e with offset := 16 })).modMot .A (fun m => { m with state := .waking, wakeTimer := some (ago 1000000 1000000), holdPending := false })) :=
  ok (((h _ .A sh bt).2 _ rfl rfl).1 (by decide +kernel) |>.2.1 .home 8 rfl rfl fetch_of)

theorem witness_wake_held (h : Obligations.IdleAndWake) :
    Answers (.wakeTimerExpiry .A) ((busy .nothing).modMot .A (fun m => { m with state := .waking, wakeTimer := some (ago 1000000 1000000), holdPending := true })) :=
  ok (((h _ .A sh bt).2 _ rfl rfl).1 (by decide +kernel) |>.2.2 rfl rfl)

theorem witness_wake_early (h : Obligations.IdleAndWake) :
    Answers (.wakeTimerExpiry .A) (base.modMot .A (fun m => { m with state := .waking, wakeTimer := some (ago 999999 1000000), holdPending := false })) :=
  ok (((h _ .A sh bt).2 _ rfl rfl).2 (by decide +kernel))

theorem witness_scale_loss (h : Obligations.ScaleSignals) : Answers (.scaleSignalLoss .A .X) base :=
  ok ((((h _ .A .X sh bt).1 rfl).1 rfl).1 (.inl rfl))

theorem witness_scale_loss_standby (h : Obligations.ScaleSignals) :
    Answers (.scaleSignalLoss .A .X) (base.modMot .A (fun m => { m with state := .standby, standby := true })) :=
  ok ((((h _ .A .X sh bt).1 rfl).1 rfl).1 (.inr rfl))

theorem witness_scale_loss_unhomed (h : Obligations.ScaleSignals) : Answers (.scaleSignalLoss .B .X) base :=
  ok ((((h _ .B .X sh bt).1 rfl).1 rfl).2.1 rfl)

theorem witness_scale_loss_waking (h : Obligations.ScaleSignals) :
    Answers (.scaleSignalLoss .A .X) (base.modMot .A (fun m => { m with state := .waking, wakeTimer := some (ago 5 1000000) })) :=
  ok ((((h _ .A .X sh bt).1 rfl).1 rfl).2.2 rfl)

theorem witness_scale_loss_flying (h : Obligations.ScaleSignals) :
    Answers (.scaleSignalLoss .A .X) (stopping .move { Stop.plain with hold := true, fault := some .driveFault }) :=
  ok (((h _ .A .X sh bt).1 rfl).2.1 _ rfl)

theorem witness_scale_loss_flying_estop (h : Obligations.ScaleSignals) :
    Answers (.scaleSignalLoss .A .X) ((stopping .move { Stop.plain with drivesOff := true }).setArmState .A .estop) :=
  ok (((h _ .A .X sh bt).1 rfl).2.1 _ rfl)

theorem witness_scale_loss_ending (h : Obligations.ScaleSignals) : Answers (.scaleSignalLoss .A .X) (busy (.ending .aborted .driveFault)) :=
  ok (((h _ .A .X sh bt).1 rfl).2.2.1 _ _ rfl)

theorem witness_scale_loss_withdrawn (h : Obligations.ScaleSignals) : Answers (.scaleSignalLoss .A .X) (busy (.ending .withdrawn .none)) :=
  ok (((h _ .A .X sh bt).1 rfl).2.2.1 _ _ rfl)

theorem witness_scale_loss_zone_wait (h : Obligations.ScaleSignals) :
    Answers (.scaleSignalLoss .A .X) { zoneWaiter with zones := { zone0 with holder := some .B, waiter := some .A, waitStart := some 5 } :: List.replicate 7 Zone.blank } :=
  ok (((h _ .A .X sh bt).1 rfl).2.2.2.1 _ _ rfl (by decide) (.other _ _ (.zones _ _ _ rfl) (by rintro _ ⟨⟩) (by rintro ⟨⟩)))

theorem witness_scale_loss_dwell (h : Obligations.ScaleSignals) : Answers (.scaleSignalLoss .A .X) (busy (.dwelling (ago 1 5000))) :=
  ok (((h _ .A .X sh bt).1 rfl).2.2.2.1 _ _ rfl (by decide) (.dwell _ rfl))

theorem witness_scale_loss_held (h : Obligations.ScaleSignals) : Answers (.scaleSignalLoss .A .X) (held (.home [.Y, .X])) :=
  ok (((h _ .A .X sh bt).1 rfl).2.2.2.1 _ _ rfl (by decide) (.other _ _ (.standing rfl) (by rintro _ ⟨⟩) (by rintro ⟨⟩)))

theorem witness_scale_loss_held_dwell (h : Obligations.ScaleSignals) : Answers (.scaleSignalLoss .A .X) (held (.dwell 7)) :=
  ok (((h _ .A .X sh bt).1 rfl).2.2.2.1 _ _ rfl (by decide) (.paused 7 rfl rfl))

theorem witness_scale_loss_waking_plan (h : Obligations.ScaleSignals) :
    Answers (.scaleSignalLoss .A .X) ((busy .nothing).modMot .A (fun m => { m with state := .waking, wakeTimer := some (ago 5 1000000) })) :=
  ok (((h _ .A .X sh bt).1 rfl).2.2.2.1 _ _ rfl (by decide) (.other _ _ (.standing rfl) (by rintro _ ⟨⟩) (by rintro ⟨⟩)))

theorem witness_scale_loss_locating (h : Obligations.ScaleSignals) :
    Answers (.scaleSignalLoss .A .X) ((busy (.locating true (ago 5 100000)) (some (.setLocation 5 (.arm .A)))).modHead .A (fun k => { k with supplyOn := true })) :=
  ok (((h _ .A .X sh bt).1 rfl).2.2.2.1 _ _ rfl (by decide) (.locating _ _ rfl rfl))

theorem witness_scale_loss_faulted (h : Obligations.ScaleSignals) : Answers (.scaleSignalLoss .A .X) (faulted .lidJam .boundary) :=
  ok ((((h _ .A .X sh bt).1 rfl).2.2.2.2.1 (by rintro _ ⟨⟩) (by rintro _ _ ⟨⟩) (by rintro _ _ ⟨⟩)).1 rfl)

theorem witness_scale_loss_estop (h : Obligations.ScaleSignals) : Answers (.scaleSignalLoss .A .X) ((held (.dwell 7)).setArmState .A .estop) :=
  ok ((((h _ .A .X sh bt).1 rfl).2.2.2.2.1 (by rintro _ ⟨⟩) (by rintro _ _ ⟨⟩) (by rintro _ _ ⟨⟩)).2 rfl)

theorem witness_scale_loss_faulted_locating (h : Obligations.ScaleSignals) :
    Answers (.scaleSignalLoss .A .X) (((busy (.locating true (ago 5 100000)) (some (.setLocation 5 (.arm .A)))).modHead .A (fun k =>
      { k with supplyOn := true })).setArmState .A .faulted) :=
  ok ((((h _ .A .X sh bt).1 rfl).2.2.2.2.2 _ _ rfl rfl).1 rfl)

theorem witness_scale_loss_estop_locating (h : Obligations.ScaleSignals) :
    Answers (.scaleSignalLoss .A .X) (((busy (.locating true (ago 5 100000)) (some (.setLocation 5 (.arm .A)))).modHead .A (fun k =>
      { k with supplyOn := true })).setArmState .A .estop) :=
  ok ((((h _ .A .X sh bt).1 rfl).2.2.2.2.2 _ _ rfl rfl).2 rfl)

theorem witness_scale_loss_again (h : Obligations.ScaleSignals) :
    Answers (.scaleSignalLoss .A .X) (base.modScale .A (fun c => { c with signal := Axes.all3 false })) :=
  ok ((h _ .A .X sh bt).2.1 rfl)

theorem witness_reference_mark (h : Obligations.HomeSearchesFollowOneAnother) :
    Answers (.referenceMark .A .Z 5) (busy (.inFlight { seg (.home [.Z, .Y, .X]) Vec3.zero with marked := false })) :=
  ok (((h _ .A sh bt).1 .Z 5 rfl).1 _ [.Y, .X] rfl rfl rfl)

theorem witness_reference_mark_passed (h : Obligations.HomeSearchesFollowOneAnother) : Answers (.referenceMark .A .Z 5) base :=
  ok (((h _ .A sh bt).1 .Z 5 rfl).2 (by rintro _ ⟨⟩))

theorem witness_home_next_axis (h : Obligations.HomeSearchesFollowOneAnother) :
    Answers (.homeAxisDone .A noCounts) (busy (.inFlight { seg (.home [.Z, .Y, .X]) Vec3.zero with marked := true })) :=
  ok (((h _ .A sh bt).2 noCounts _ .Z [.Y, .X] rfl rfl rfl rfl).1 .Y [.X] rfl)

theorem witness_home_done (h : Obligations.HomeSearchesFollowOneAnother) :
    Answers (.homeAxisDone .A noCounts) (busy (.inFlight { seg (.home [.X]) Vec3.zero with marked := true })) :=
  ok (((h _ .A sh bt).2 noCounts _ .X [] rfl rfl rfl rfl).2 .home 8 rfl (by rintro _ _ _ ⟨⟩) goes)

theorem witness_drive_ready_noted (h : Obligations.DrivesReportReady) :
    Answers (.driveReady .A .Z) (busy (.driveWait (seg .move ⟨1000, 1000, 1000⟩).req 10000 ⟨false, true, false⟩ (ago 5 1000000))) :=
  ok ((h _ .A .Z _ _ _ _ sh bt rfl).1 (by decide +kernel) rfl)

theorem witness_drive_ready_all (h : Obligations.DrivesReportReady) :
    Answers (.driveReady .A .Z) (busy (.driveWait (seg .move ⟨1000, 1000, 1000⟩).req 10000 ⟨true, true, false⟩ (ago 5 1000000))) :=
  ok (((h _ .A .Z _ _ _ _ sh bt rfl).2.1 (by decide +kernel) rfl).1 rfl)

theorem witness_drive_ready_leg (h : Obligations.DrivesReportReady) :
    Answers (.driveReady .A .Z) ((busy (.driveWait (seg (.leg 1) ⟨1000, 1000, 1000⟩).req 10000 ⟨true, true, false⟩ (ago 5 1000000))).modCap .A (fun c => { c with item := some (.scan aScan) })) :=
  ok (((h _ .A .Z _ _ _ _ sh bt rfl).2.1 (by decide +kernel) rfl).1 rfl)

theorem witness_drive_ready_home (h : Obligations.DrivesReportReady) :
    Answers (.driveReady .A .Z) (busy (.driveWait (seg (.home [.Z, .Y, .X]) Vec3.zero).req 0 ⟨true, true, false⟩ (ago 5 1000000))) :=
  ok (((h _ .A .Z _ _ _ _ sh bt rfl).2.1 (by decide +kernel) rfl).2 .Z [.Y, .X] rfl)

theorem witness_drive_ready_late (h : Obligations.DrivesReportReady) :
    Answers (.driveReadyTimeout .A) (busy (.driveWait (seg .move ⟨1000, 1000, 1000⟩).req 10000 ⟨true, true, false⟩ (ago 1000000 1000000))) :=
  ok ((h _ .A .Z _ _ _ _ sh bt rfl).2.2.1 (by decide +kernel) calm rfl)

theorem witness_drive_ready_early (h : Obligations.DrivesReportReady) :
    Answers (.driveReadyTimeout .A) (busy (.driveWait (seg .move ⟨1000, 1000, 1000⟩).req 10000 ⟨true, true, false⟩ (ago 999999 1000000))) :=
  ok ((h _ .A .Z _ _ _ _ sh bt rfl).2.2.2.1 (by decide +kernel))

theorem witness_drive_ready_too_late (h : Obligations.DrivesReportReady) :
    Answers (.driveReady .A .Z) (busy (.driveWait (seg .move ⟨1000, 1000, 1000⟩).req 10000 ⟨true, true, false⟩ (ago 1000001 1000000))) :=
  ok ((h _ .A .Z _ _ _ _ sh bt rfl).2.2.2.2 (by decide +kernel))

theorem witness_amplifier_fault (h : Obligations.DriveChecksStopTheArm) : Answers (.amplifierFault .A .X) (flyingSeg .move) :=
  ok (((h _ .A .X sh bt rfl rfl).1 _ rfl rfl (by decide +kernel)).1)

theorem witness_following_over (h : Obligations.DriveChecksStopTheArm) : Answers (.followingError .A .X 50001 0) (flyingSeg .move) :=
  ok ((((h _ .A .X sh bt rfl rfl).1 _ rfl rfl (by decide +kernel)).2 50001 0).1 (by decide +kernel))

theorem witness_following_at_limit (h : Obligations.DriveChecksStopTheArm) : Answers (.followingError .A .X 50000 0) (flyingSeg .move) :=
  ok ((((h _ .A .X sh bt rfl rfl).1 _ rfl rfl (by decide +kernel)).2 50000 0).2 (by decide +kernel))

theorem witness_amplifier_held (h : Obligations.DriveChecksStopTheArm) :
    Answers (.amplifierFault .A .X) ((held (.dwell 7)).modMot .A (fun m => { m with commanded := some Vec3.zero })) :=
  ok (((h _ .A .X sh bt rfl rfl).2 _ _ rfl rfl rfl calm rfl rfl).1)

theorem witness_amplifier_held_move (h : Obligations.DriveChecksStopTheArm) :
    Answers (.amplifierFault .A .X) ((held (.segment (seg .move ⟨1000, 1000, 1000⟩).req)).modMot .A (fun m => { m with commanded := some Vec3.zero })) :=
  ok (((h _ .A .X sh bt rfl rfl).2 _ _ rfl rfl rfl calm rfl rfl).1)

/-- R62: a drive fault in a DWELL that a HOLD has paused leaves the whole DWELL to be run again. -/
theorem test_fault_in_paused_dwell : ((raiseFault .A .driveFault (held (.dwell 7))).arm .A).mot.resume = some .item := by decide

theorem witness_following_held (h : Obligations.DriveChecksStopTheArm) :
    Answers (.followingError .A .X 0 501) ((held (.dwell 7)).modMot .A (fun m => { m with commanded := some Vec3.zero })) :=
  ok ((((h _ .A .X sh bt rfl rfl).2 _ _ rfl rfl rfl calm rfl rfl).2 0 501).1 (by decide +kernel))

theorem witness_following_held_at_limit (h : Obligations.DriveChecksStopTheArm) :
    Answers (.followingError .A .X 0 500) ((held (.dwell 7)).modMot .A (fun m => { m with commanded := some Vec3.zero })) :=
  ok ((((h _ .A .X sh bt rfl rfl).2 _ _ rfl rfl rfl calm rfl rfl).2 0 500).2 (by decide +kernel))

theorem witness_segment_complete (h : Obligations.SegmentsEnd) : Answers (.segmentComplete .A noCounts) (flyingSeg .move) :=
  ok (((h _ .A noCounts _ sh bt rfl rfl rfl).1 rfl noWait (by rintro ⟨⟩ <;> decide +kernel)).1 .home 8 rfl goes)

theorem witness_pass_missed (h : Obligations.SegmentsEnd) : Answers (.segmentComplete .A noCounts) (touching .pass1 aTouch) :=
  ok ((((h _ .A noCounts _ sh bt rfl rfl rfl).1 rfl noWait (by rintro ⟨⟩ <;> decide +kernel)).2.2.2 _ rfl).1 rfl (by decide) free)

theorem witness_pass_missed_last (h : Obligations.SegmentsEnd) :
    Answers (.segmentComplete .A noCounts) ((touching .pass2 aTouch).modCap .A (fun c => { c with attempts := 2 })) :=
  ok ((((h _ .A noCounts _ sh bt rfl rfl rfl).1 rfl noWait (by rintro ⟨⟩ <;> decide +kernel)).2.2.2 _ rfl).2.1 rfl (by decide) free)

theorem witness_retry (h : Obligations.SegmentsEnd) : Answers (.segmentComplete .A noCounts) (touching .retractRetry aTouch) :=
  ok ((((h _ .A noCounts _ sh bt rfl rfl rfl).1 rfl noWait (by rintro ⟨⟩ <;> decide +kernel)).2.2.2 _ rfl).2.2.1 rfl (by decide +kernel) (by decide +kernel) probes)

theorem witness_pass2 (h : Obligations.SegmentsEnd) :
    Answers (.segmentComplete .A noCounts) (touching .backoff { aTouch with measureFeed := 2000 }) :=
  ok ((((h _ .A noCounts _ sh bt rfl rfl rfl).1 rfl noWait (by rintro ⟨⟩ <;> decide +kernel)).2.2.2 _ rfl).2.2.2.1 rfl (by decide +kernel) (by decide +kernel) probes)

theorem witness_touch_done (h : Obligations.SegmentsEnd) :
    Answers (.segmentComplete .A noCounts) ((touching .retractEnd aTouch).modCap .A (fun c => { c with pointTaken := true })) :=
  ok (((((h _ .A noCounts _ sh bt rfl rfl rfl).1 rfl noWait (by rintro ⟨⟩ <;> decide +kernel)).2.2.2 _ rfl).2.2.2.2 rfl rfl (by decide)).1 .home 8 rfl (by simp [touching, chained, page7]; decide) goes)

theorem witness_touch_missed_hold (h : Obligations.SegmentsEnd) :
    Answers (.segmentComplete .A noCounts) ((touching .retractEnd aTouch).modExec .A (fun e => { e with plan := some { planA with miss := 2 } })) :=
  ok ((((((h _ .A noCounts _ sh bt rfl rfl rfl).1 rfl noWait (by rintro ⟨⟩ <;> decide +kernel)).2.2.2 _ rfl).2.2.2.2 rfl rfl (by decide)).2 { planA with miss := 2 } rfl rfl).1 rfl calm)

theorem witness_touch_missed (h : Obligations.SegmentsEnd) : Answers (.segmentComplete .A noCounts) (touching .retractEnd aTouch) :=
  ok ((((((h _ .A noCounts _ sh bt rfl rfl rfl).1 rfl noWait (by rintro ⟨⟩ <;> decide +kernel)).2.2.2 _ rfl).2.2.2.2 rfl rfl (by decide)).2 planA rfl rfl).2 page7 .home 8 (by decide) one goes)

theorem witness_segment_out_of_band (h : Obligations.SegmentsEnd) : Answers (.segmentComplete .A ⟨30, 0, 0⟩) (flyingSeg .move) :=
  ok (((h _ .A ⟨30, 0, 0⟩ _ sh bt rfl rfl rfl).2 ⟨.X, by decide +kernel⟩).1)

theorem witness_in_position_timeout (h : Obligations.SegmentsEnd) : Answers (.inPositionTimeout .A ⟨30, 0, 0⟩) (flyingSeg .move) :=
  ok (((h _ .A ⟨30, 0, 0⟩ _ sh bt rfl rfl rfl).2 ⟨.X, by decide +kernel⟩).2 calm rfl)

theorem witness_next_leg (h : Obligations.SegmentsEnd) :
    Answers (.segmentComplete .A noCounts) ((sampling 3 none).modCap .A (fun c => { c with item := some (.scan { aScan with waypoints := [⟨0, 0, 5000⟩, ⟨1, 0, 5000⟩] }) })) :=
  ok ((((h _ .A noCounts _ sh bt rfl rfl rfl).1 rfl noWait (by rintro ⟨⟩ <;> decide +kernel)).2.1 _ 1 rfl rfl).1 (by decide) (by decide +kernel) (by decide +kernel) probes)

theorem witness_last_leg_sample (h : Obligations.SegmentsEnd) : Answers (.segmentComplete .A noCounts) (sampling 3 (some aSample)) :=
  ok ((((h _ .A noCounts _ sh bt rfl rfl rfl).1 rfl noWait (by rintro ⟨⟩ <;> decide +kernel)).2.1 _ 1 rfl rfl).2.1 (by decide) (by rintro ⟨⟩))

theorem witness_scan_done (h : Obligations.SegmentsEnd) :
    Answers (.segmentComplete .A noCounts) ((sampling 3 none).modCap .A (fun c => { c with dropped := 2 })) :=
  ok ((((h _ .A noCounts _ sh bt rfl rfl rfl).1 rfl noWait (by rintro ⟨⟩ <;> decide +kernel)).2.1 _ 1 rfl rfl).2.2 .home 8 (by decide) rfl (by simp [sampling, chained, page7]; decide) goes)

theorem witness_d1_arrives (h : Obligations.SegmentsEnd) :
    Answers (.segmentComplete .A noCounts) (moving .d1 { Port.blank with occ := .empty }) :=
  ok ((((((h _ .A noCounts _ sh bt rfl rfl rfl).1 rfl noWait (by rintro ⟨⟩ <;> decide +kernel)).2.2.1 (chg .d1) rfl rfl).1) rfl).1 ⟨rfl, rfl⟩)

theorem witness_d1_not_empty (h : Obligations.SegmentsEnd) : Answers (.segmentComplete .A noCounts) (moving .d1 Port.blank) :=
  ok ((((((h _ .A noCounts _ sh bt rfl rfl rfl).1 rfl noWait (by rintro ⟨⟩ <;> decide +kernel)).2.2.1 (chg .d1) rfl rfl).1) rfl).2 (by decide +kernel) calm)

theorem witness_d3_arrives (h : Obligations.SegmentsEnd) :
    Answers (.segmentComplete .A noCounts) (mounted (moving .d3 Port.blank) probe5) :=
  ok (((((h _ .A noCounts _ sh bt rfl rfl rfl).1 rfl noWait (by rintro ⟨⟩ <;> decide +kernel)).2.2.1 (chg .d3) rfl rfl).2.1) 5 rfl rfl rfl)

theorem witness_d8_arrives (h : Obligations.SegmentsEnd) : Answers (.segmentComplete .A noCounts) (moving .d8move Port.blank) :=
  ok (((((h _ .A noCounts _ sh bt rfl rfl rfl).1 rfl noWait (by rintro ⟨⟩ <;> decide +kernel)).2.2.1 (chg .d8move) rfl rfl).2.2.1) rfl)

theorem witness_p1_arrives (h : Obligations.SegmentsEnd) :
    Answers (.segmentComplete .A noCounts) (moving .p1 { Port.blank with occ := .occupied, probe := some 5 }) :=
  ok ((((((h _ .A noCounts _ sh bt rfl rfl rfl).1 rfl noWait (by rintro ⟨⟩ <;> decide +kernel)).2.2.1 (chg .p1) rfl rfl).2.2.2.1) rfl).1 ⟨rfl, rfl⟩)

theorem witness_p1_empty (h : Obligations.SegmentsEnd) :
    Answers (.segmentComplete .A noCounts) (moving .p1 { Port.blank with occ := .empty, probe := some 5 }) :=
  ok ((((((h _ .A noCounts _ sh bt rfl rfl rfl).1 rfl noWait (by rintro ⟨⟩ <;> decide +kernel)).2.2.1 (chg .p1) rfl rfl).2.2.2.1) rfl).2 (by decide +kernel) calm)

theorem witness_p2_docks (h : Obligations.SegmentsEnd) : Answers (.segmentComplete .A noCounts) (moving .p2dock Port.blank) :=
  ok (((((h _ .A noCounts _ sh bt rfl rfl rfl).1 rfl noWait (by rintro ⟨⟩ <;> decide +kernel)).2.2.1 (chg .p2dock) rfl rfl).2.2.2.2.1) rfl)

theorem witness_p7_confirmed (h : Obligations.SegmentsEnd) :
    Answers (.segmentComplete .A noCounts) (moving .p7move { Port.blank with occ := .empty }) :=
  ok ((((((h _ .A noCounts _ sh bt rfl rfl rfl).1 rfl noWait (by rintro ⟨⟩ <;> decide +kernel)).2.2.1 (chg .p7move) rfl rfl).2.2.2.2.2) rfl).1 rfl)

theorem witness_p7_awaits (h : Obligations.SegmentsEnd) : Answers (.segmentComplete .A noCounts) (moving .p7move Port.blank) :=
  ok ((((((h _ .A noCounts _ sh bt rfl rfl rfl).1 rfl noWait (by rintro ⟨⟩ <;> decide +kernel)).2.2.1 (chg .p7move) rfl rfl).2.2.2.2.2) rfl).2.1 (by decide) rfl)

theorem witness_p7_awaits_on (h : Obligations.SegmentsEnd) :
    Answers (.segmentComplete .A noCounts) ((moving .p7move Port.blank).setChange .A (some { chg .p7move with confirm := some (ago 7 500000) })) :=
  ok ((((((h _ .A noCounts _ sh bt rfl rfl rfl).1 rfl noWait (by rintro ⟨⟩ <;> decide +kernel)).2.2.1 { chg .p7move with confirm := some (ago 7 500000) } rfl rfl).2.2.2.2.2) rfl).2.2 (ago 7 500000) (by decide) rfl)

theorem witness_move_drives (h : Obligations.MoveTakesOff) :
    Answers (.move .A) ((mounted (handed (.move ⟨500000, 0, 0⟩ 60000)) probe5).modMot .A (fun m => { m with drives := Axes.all3 false })) :=
  ok (h _ .A ⟨500000, 0, 0⟩ 60000 sh bt rfl free)

theorem witness_move (h : Obligations.MoveTakesOff) : Answers (.move .A) (handed (.move ⟨500000, 0, 0⟩ 60000)) :=
  ok (h _ .A ⟨500000, 0, 0⟩ 60000 sh bt rfl free)

theorem witness_move_absent (h : Obligations.MoveIsKeptBack) :
    Answers (.move .A) (mounted (handed (.move ⟨500000, 0, 0⟩ 60000)) { probe5 with present := false }) :=
  ok (((h _ .A ⟨500000, 0, 0⟩ 60000 sh bt rfl calm).1 5 (by decide +kernel) (by decide +kernel) rfl).1 rfl)

theorem witness_move_forbidden (h : Obligations.MoveIsKeptBack) :
    Answers (.move .A) (mounted (handed (.move ⟨500000, 0, 0⟩ 60000)) { probe5 with permission := .onlyB }) :=
  ok (((h _ .A ⟨500000, 0, 0⟩ 60000 sh bt rfl calm).1 5 (by decide +kernel) (by decide +kernel) rfl).2.1 rfl rfl)

theorem witness_move_beyond (h : Obligations.MoveIsKeptBack) : Answers (.move .A) (handed (.move ⟨1000000001, 0, 0⟩ 60000)) :=
  ok ((h _ .A ⟨1000000001, 0, 0⟩ 60000 sh bt rfl calm).2.2.1 ⟨.X, .inr (by decide +kernel)⟩)

theorem witness_move_waits (h : Obligations.MoveIsKeptBack) :
    Answers (.move .A) { (handed (.move ⟨2500000, 0, 0⟩ 60000)) with zones := { zone0 with holder := some .A } :: { zone1 with holder := some .B } :: List.replicate 6 Zone.blank } :=
  ok (((h _ .A ⟨2500000, 0, 0⟩ 60000 sh bt rfl calm).2.2.2 1 (by decide +kernel) (by decide +kernel) rfl (by rintro k hk; revert k; decide +kernel)).1 noWait)

theorem witness_move_deadlocks (h : Obligations.MoveIsKeptBack) :
    Answers (.move .A) (({ (handed (.move ⟨2500000, 0, 0⟩ 60000)).modMot .B (fun m => { m with state := .zoneWait, doing := .zoneWait (seg .move Vec3.zero).req [0] none }) with zones := { zone0 with holder := some .A, waiter := some .B, waitStart := some 5 } :: { zone1 with holder := some .B } :: List.replicate 6 Zone.blank }).modExec .B (fun e => { e with plan := some { planA with slot := 2 } })) :=
  ok (((h _ .A ⟨2500000, 0, 0⟩ 60000 sh bt rfl calm).2.2.2 1 (by decide +kernel) (by decide +kernel) rfl (by rintro k hk; revert k; decide +kernel)).2 0 _ _ _ rfl rfl rfl)

theorem witness_zone_timeout (h : Obligations.WaitLimitsFault) :
    Answers (.zoneWaitTimeout .A) ((busy (.zoneWait (seg .move Vec3.zero).req [0] (some (ago 10000000 10000000)))).setArmState .A .zoneWait) :=
  ok (((h _ .A _ sh bt calm).1 _ _ rfl).1 (by decide +kernel))

theorem witness_zone_timer_early (h : Obligations.WaitLimitsFault) :
    Answers (.zoneWaitTimeout .A) ((busy (.zoneWait (seg .move Vec3.zero).req [0] (some (ago 9999999 10000000)))).setArmState .A .zoneWait) :=
  ok (((h _ .A _ sh bt calm).1 _ _ rfl).2 (by decide +kernel))

theorem witness_rack_timeout (h : Obligations.WaitLimitsFault) :
    Answers (.rackWaitTimeout .A) (({ busy (.rackWait (ago 30000000 30000000)) with rack := { base.rack with waiter := some .A, holder := some .B } }).setArmState .A .rackWait) :=
  ok (((h _ .A _ sh bt calm).2 rfl rfl).1 (by decide +kernel))

theorem witness_rack_timer_early (h : Obligations.WaitLimitsFault) :
    Answers (.rackWaitTimeout .A) (({ busy (.rackWait (ago 29999999 30000000)) with rack := { base.rack with waiter := some .A, holder := some .B } }).setArmState .A .rackWait) :=
  ok (((h _ .A _ sh bt calm).2 rfl rfl).2 (by decide +kernel))

theorem witness_dwell_early (h : Obligations.DwellRunsItsTime) : Answers (.dwellTimerExpiry .A) (busy (.dwelling (ago 4999 5000))) :=
  ok ((h _ .A sh bt).2.2.1 _ rfl (by decide +kernel))

theorem witness_plan_withdrawn (h : Obligations.DwellRunsItsTime) :
    Answers (.dwellTimerExpiry .A) { dwelt with mem := writeBytes mem0 0x10005 [1] } :=
  ok ((((h _ .A sh bt).2.2.2.1 _ planA rfl (by decide +kernel) rfl rfl).1 alone).1 (by decide +kernel))

theorem witness_library_gone (h : Obligations.DwellRunsItsTime) :
    Answers (.dwellTimerExpiry .A) (dwelt.modExec .A (fun e => { e with slot := 2, stack := [{ slot := 0, index := 0, offset := 0, savedOffset := Vec3.zero, rep := none }] })) :=
  ok ((((h _ .A sh bt).2.2.2.1 _ planA rfl (by decide +kernel) rfl rfl).1 alone).2.1 (by decide +kernel) (by decide +kernel) (by decide +kernel))

theorem witness_header_bad (h : Obligations.DwellRunsItsTime) :
    Answers (.dwellTimerExpiry .A) (dwelt.modExec .A (fun e => { e with slotLen := 4033, headerDue := true })) :=
  ok ((((h _ .A sh bt).2.2.2.1 _ planA rfl (by decide +kernel) rfl rfl).1 alone).2.2.1 (by decide +kernel) (.inl rfl) (.inl ⟨rfl, by decide +kernel⟩))

theorem witness_policy_bad (h : Obligations.DwellRunsItsTime) :
    Answers (.dwellTimerExpiry .A) (dwelt.modExec .A (fun e => { e with policyDue := true, plan := some { planA with miss := 3 } })) :=
  ok ((((h _ .A sh bt).2.2.2.1 _ { planA with miss := 3 } rfl (by decide +kernel) rfl rfl).1 alone).2.2.1 (by decide +kernel) (.inl rfl) (.inr ⟨rfl, 3, by decide, by decide⟩))

theorem witness_plan_completed (h : Obligations.DwellRunsItsTime) :
    Answers (.dwellTimerExpiry .A) (dwelt.modExec .A (fun e => { e with offset := 8 })) :=
  ok ((((h _ .A sh bt).2.2.2.1 _ planA rfl (by decide +kernel) rfl rfl).1 alone).2.2.2.1 reaches rfl rfl)

theorem witness_bad_item (h : Obligations.DwellRunsItsTime) :
    Answers (.dwellTimerExpiry .A) { dwelt with mem := writeBytes mem0 0x10050 [17] } :=
  ok (((((h _ .A sh bt).2.2.2.1 _ planA rfl (by decide +kernel) rfl rfl).1 alone).2.2.2.2 reaches (by decide +kernel)).1 .badItem (by decide +kernel))

theorem witness_not_homed (h : Obligations.DwellRunsItsTime) :
    Answers (.dwellTimerExpiry .A) ((({ dwelt with mem := writeBytes mem0 0x10050 ([1, 0, 40] ++ zeros 29 ++ [9]) }).modExec .A (fun e => { e with slotLen := 56 })).modScale .A (fun sc => { sc with homed := false })) :=
  ok (((((h _ .A sh bt).2.2.2.1 _ planA rfl (by decide +kernel) rfl rfl).1 alone).2.2.2.2 reaches (by decide +kernel)).2 (.move Vec3.zero 9) 40 (by decide +kernel) rfl rfl)

theorem witness_slot_revoked (h : Obligations.DwellRunsItsTime) :
    Answers (.dwellTimerExpiry .A) { dwelt with mem := writeTag mem0 0x10000 tagFree } :=
  ok (((h _ .A sh bt).2.2.2.1 _ planA rfl (by decide +kernel) rfl rfl).2 tagFree (by decide +kernel) (by decide) rfl (by decide) rfl (by decide) rfl)

theorem witness_dwell (h : Obligations.DwellRunsItsTime) : Answers (.dwell .A) (handed (.dwell 5)) :=
  ok ((h _ .A sh bt).1 5 rfl)

theorem witness_dwell_ends (h : Obligations.DwellRunsItsTime) : Answers (.dwellTimerExpiry .A) (busy (.dwelling (ago 5000 5000))) :=
  ok ((h _ .A sh bt).2.1 _ .home 8 rfl (by decide +kernel) goes)

theorem witness_home_drives (h : Obligations.HomeSearchesEveryZone) :
    Answers (.home .A) ((handed .home).modMot .A (fun m => { m with drives := Axes.all3 false })) :=
  ok ((h _ .A sh bt rfl).2.1 (by rintro ⟨⟩ <;> rfl) (by decide +kernel) rfl)

theorem witness_home_lost (h : Obligations.HomeSearchesEveryZone) :
    Answers (.home .A) ((handed .home).modScale .A (fun c => { c with signal := Axes.all3 false })) :=
  ok ((h _ .A sh bt rfl).2.2 ⟨.X, rfl⟩ calm)

theorem witness_home (h : Obligations.HomeSearchesEveryZone) : Answers (.home .A) (handed .home) :=
  ok ((h _ .A sh bt rfl).1 (by rintro ⟨⟩ <;> rfl) (by decide +kernel) rfl)

theorem witness_touch_waits (h : Obligations.CaptureItemsAskForRoom) : Answers (.touch .A) (handed (.touch aTouch)) :=
  ok (((h.1 _ .A (.touch aTouch) 1 planA sh bt rfl (.inl ⟨_, rfl, rfl⟩)).1 rfl).1 (by decide +kernel) (by decide +kernel) (by decide +kernel))

theorem witness_touch (h : Obligations.CaptureItemsAskForRoom) : Answers (.touch .A) (chained (mounted (handed (.touch aTouch)) probe5)) :=
  ok ((((h.1 _ .A (.touch aTouch) 1 planA sh bt rfl (.inl ⟨_, rfl, rfl⟩)).1 rfl).2.2.1 (by decide +kernel) (by decide +kernel) (by decide +kernel)).1 probes)

theorem witness_touch_drives (h : Obligations.CaptureItemsAskForRoom) :
    Answers (.touch .A) ((chained (mounted (handed (.touch aTouch)) probe5)).modMot .A (fun m => { m with drives := Axes.all3 false })) :=
  ok ((((h.1 _ .A (.touch aTouch) 1 planA sh bt rfl (.inl ⟨_, rfl, rfl⟩)).1 rfl).2.2.1 (by decide +kernel) (by decide +kernel) (by decide +kernel)).1 probes)

theorem witness_touch_shadow (h : Obligations.CaptureItemsAskForRoom) :
    Answers (.touch .A) ((chained (mounted (handed (.touch aTouch)) probe5)).modHead .A (fun k => { k with shadow := some (ago 5 20000) })) :=
  ok ((((h.1 _ .A (.touch aTouch) 1 planA sh bt rfl (.inl ⟨_, rfl, rfl⟩)).1 rfl).2.2.1 (by decide +kernel) (by decide +kernel) (by decide +kernel)).2.1 (by decide +kernel) (by decide +kernel))

theorem witness_touch_without_probe (h : Obligations.CaptureItemsAskForRoom) : Answers (.touch .A) (chained (handed (.touch aTouch))) :=
  ok ((((h.1 _ .A (.touch aTouch) 1 planA sh bt rfl (.inl ⟨_, rfl, rfl⟩)).1 rfl).2.2.1 (by decide +kernel) (by decide +kernel) (by decide +kernel)).2.2 (by decide +kernel) rfl calm .probeNone (by decide +kernel))

theorem witness_scan_waits (h : Obligations.CaptureItemsAskForRoom) : Answers (.scan .A) (handed (.scan aScan)) :=
  ok (((h.1 _ .A (.scan aScan) 100 planA sh bt rfl (.inr ⟨_, rfl, rfl⟩)).1 rfl).1 (by decide +kernel) (by decide +kernel) (by decide +kernel))

theorem witness_scan (h : Obligations.CaptureItemsAskForRoom) :
    Answers (.scan .A) (chained (mounted (handed (.scan { aScan with maxPoints := 62 })) { probe5 with kind := .scan })) :=
  ok ((((h.1 _ .A (.scan { aScan with maxPoints := 62 }) 62 planA sh bt rfl (.inr ⟨_, rfl, rfl⟩)).1 rfl).2.2.1 (by decide +kernel) (by decide +kernel) (by decide +kernel)).1 probes)

theorem witness_scan_kind (h : Obligations.CaptureItemsAskForRoom) :
    Answers (.scan .A) (chained (mounted (handed (.scan { aScan with maxPoints := 62 })) probe5)) :=
  ok ((((h.1 _ .A (.scan { aScan with maxPoints := 62 }) 62 planA sh bt rfl (.inr ⟨_, rfl, rfl⟩)).1 rfl).2.2.1 (by decide +kernel) (by decide +kernel) (by decide +kernel)).2.2 (by decide +kernel) rfl calm .probeKind (by decide +kernel))

/-- Pages 9, 11 and 13 in the view; the tags of those listed are GIVEN. -/
def viewing (s : State) (given : List Nat) : State :=
  { s with view := [9, 11, 13], mem := given.foldl (fun m q => writeTag m (pageBase q) tagGiven) s.mem }

/-- A SCAN of that many points, at most. -/
def aScanOf (n : Nat) : Item := .scan { aScan with maxPoints := n }

def scanner (s : State) : State := mounted s { probe5 with kind := .scan }

theorem witness_touch_reserves (h : Obligations.CaptureItemsAskForRoom) :
    Answers (.touch .A) (viewing (mounted (handed (.touch aTouch)) probe5) [9, 11]) :=
  ok ((((h.1 _ .A (.touch aTouch) 1 planA sh bt rfl (.inl ⟨_, rfl, rfl⟩)).1 rfl).2.2.2 [9] [11, 13]
    ⟨by decide +kernel, .inl rfl, rfl, by decide +kernel, by decide +kernel, 9, rfl, by decide +kernel⟩ (by decide +kernel) (by decide +kernel)).1 probes)

theorem witness_scan_reserves (h : Obligations.CaptureItemsAskForRoom) :
    Answers (.scan .A) (viewing (chained (scanner (handed (aScanOf 188)))) [9, 13]) :=
  ok ((((h.1 _ .A (aScanOf 188) 188 planA sh bt rfl (.inr ⟨_, rfl, rfl⟩)).1 rfl).2.2.2 [9, 11, 13] []
    ⟨by decide +kernel, .inr ⟨page7, one⟩, rfl, by decide +kernel, by decide +kernel, 13, rfl, by decide +kernel⟩ (by decide +kernel) (by decide +kernel)).1 probes)

theorem witness_touch_taken (h : Obligations.CaptureItemsAskForRoom) :
    Answers (.touch .A) (viewing (handed (.touch aTouch)) []) :=
  ok (((h.1 _ .A (.touch aTouch) 1 planA sh bt rfl (.inl ⟨_, rfl, rfl⟩)).1 rfl).2.1 (by decide +kernel) (by decide +kernel) (by decide +kernel)
    (by decide +kernel) (by decide +kernel))

/-- Arm A's TOUCH waits for room while a scan runs, each page tagged so. -/
def touchWaits (u : Byte) : State :=
  { (mounted roomWaiter probe5).modCap .A (fun c =>
      { c.cleared with item := some (.touch aTouch), phase := .room, attempts := 1 }) with mem := paged u taken0, scanning := true }

theorem quiet_touch {u : Byte} (h : u = 1 ∨ u = 2) : QuietScan (touchWaits u) :=
  ⟨rfl, quiet_slots (by simp [taken0]) (by rcases h with rfl | rfl <;> decide +kernel), pages_known h (by simp [taken0])⟩

theorem witness_touch_still_waits (h : Obligations.CaptureItemsAskForRoom) : Answers .tagScan (touchWaits 1) :=
  ok (((h.1 _ .A (.touch aTouch) 1 planA sh bt rfl (.inl ⟨_, rfl, rfl⟩)).2 5 rfl rfl rfl (by decide +kernel) rfl (quiet_touch (.inl rfl)) rfl rfl).1
    (by decide +kernel) (by rw [given_none (l := taken0) (by simp [taken0])]; decide +kernel) (by decide +kernel))

theorem swept_view (s : State) : s.swept.view = givenPages s := by simp only [State.swept]

theorem touch_reserves : (touchWaits 2).opened.swept.Reserves .A 1 [0] (List.range' 1 511) := by
  have g : (touchWaits 2).opened.swept.view = [0] ++ List.range' 1 511 := by
    rw [swept_view, given_known (s := (touchWaits 2).opened) (l := taken0) (by simp [taken0])]; rfl
  exact ⟨by decide +kernel, .inl rfl, g, by rw [g]; decide +kernel, by decide +kernel, 0, rfl, by decide +kernel⟩

theorem witness_touch_granted (h : Obligations.CaptureItemsAskForRoom) : Answers .tagScan (touchWaits 2) :=
  ok (((h.1 _ .A (.touch aTouch) 1 planA sh bt rfl (.inl ⟨_, rfl, rfl⟩)).2 5 rfl rfl rfl (by decide +kernel) rfl (quiet_touch (.inr rfl)) rfl rfl).2
    [0] _ touch_reserves (by decide +kernel) (by decide +kernel) |>.1 probes)

theorem witness_mark (h : Obligations.MarkWritesItsRecord) : Answers (.mark .A) (chained (handed (.mark 9)) 62) :=
  ok (((h _ .A 9 planA .home 8 sh bt rfl rfl (by decide +kernel)).1 rfl).1 { page7 with count := 62 } one (by decide +kernel) goes)

theorem witness_mark_second (h : Obligations.MarkWritesItsRecord) : Answers (.mark .A) (chained (handed (.mark 9)) 1) :=
  ok (((h _ .A 9 planA .home 8 sh bt rfl rfl (by decide +kernel)).1 rfl).1 page7 one (by decide +kernel) goes)

theorem witness_mark_first (h : Obligations.MarkWritesItsRecord) : Answers (.mark .A) (chained (handed (.mark 9)) 0) :=
  ok (((h _ .A 9 planA .home 8 sh bt rfl rfl (by decide +kernel)).1 rfl).1 { page7 with count := 0 } one (by decide +kernel) goes)

theorem witness_mark_reserves (h : Obligations.MarkWritesItsRecord) :
    Answers (.mark .A) { handed (.mark 9) with view := [7, 9], mem := writeTag mem0 (pageBase 7) tagGiven } :=
  ok (((h _ .A 9 planA .home 8 sh bt rfl rfl (by decide +kernel)).1 rfl).2.1 7 [9] rfl rfl (by decide +kernel) (by decide +kernel) goes)

theorem witness_mark_in_estop (h : Obligations.MarkWritesItsRecord) :
    Answers (.mark .A) ((chained (handed (.mark 9))).setArmState .A .estop) :=
  ok (((h _ .A 9 planA .home 8 sh bt rfl rfl (by decide +kernel)).1 rfl).2.2.2.2.1 page7 (.inl rfl) one)

theorem witness_mark_held_without_room (h : Obligations.MarkWritesItsRecord) :
    Answers (.mark .A) ((handed (.mark 9)).setArmState .A .faulted) :=
  ok (((h _ .A 9 planA .home 8 sh bt rfl rfl (by decide +kernel)).1 rfl).2.2.2.2.2 (.inr (.inr rfl)) rfl rfl)

theorem witness_mark_missing (h : Obligations.MarkWritesItsRecord) :
    Answers (.mark .A) { handed (.mark 9) with view := [7, 9], mem := writeTag (writeTag mem0 (pageBase 7) tagHost) (pageBase 9) tagGiven } :=
  ok (((h _ .A 9 planA .home 8 sh bt rfl rfl (by decide +kernel)).1 rfl).2.2.1 7 9 [] rfl rfl (by decide) (by decide +kernel) (by decide +kernel) (by decide +kernel) goes)

theorem witness_mark_missing_last (h : Obligations.MarkWritesItsRecord) : Answers (.mark .A) { handed (.mark 9) with view := [7] } :=
  ok (((h _ .A 9 planA .home 8 sh bt rfl rfl (by decide +kernel)).1 rfl).2.2.2.1 7 (by decide +kernel) rfl rfl (by decide +kernel))

theorem witness_mark_still_waits (h : Obligations.MarkWritesItsRecord) : Answers .tagScan (markWaits 1) :=
  ok (((h _ .A 9 planA .home 8 sh bt rfl rfl (by decide +kernel)).2 5 rfl rfl rfl rfl (quiet_mark (.inl rfl)) rfl rfl).1 (given_none (l := taken0) (by simp [taken0])) (by decide +kernel))

theorem witness_mark_granted (h : Obligations.MarkWritesItsRecord) : Answers .tagScan (markWaits 2) :=
  ok (((h _ .A 9 planA .home 8 sh bt rfl rfl (by decide +kernel)).2 5 rfl rfl rfl rfl (quiet_mark (.inr rfl)) rfl rfl).2 _ _ (given_known (l := taken0) (by simp [taken0])) goes)

theorem witness_head_done (h : Obligations.HeadIndexes) :
    Answers (.headIndexDone ⟨.A, (ago 5 3000000).start⟩) (mounted (busy (.indexing (ago 5 3000000)) (some (.head 3 4))) probe5) :=
  ok ((h _ .A 3 4 sh bt).2.1 _ .home 8 rfl rfl goes)

theorem witness_head_timeout (h : Obligations.HeadIndexes) :
    Answers (.headTimerExpiry .A) (busy (.indexing (ago 3000000 3000000)) (some (.head 3 4))) :=
  ok ((h _ .A 3 4 sh bt).2.2.1 _ rfl calm (by decide +kernel))

theorem witness_head_done_of_halted (h : Obligations.HeadIndexes) :
    Answers (.headIndexDone ⟨.A, (ago 6 0).start⟩) (mounted (busy (.indexing (ago 5 3000000)) (some (.head 3 4))) probe5) :=
  ok ((h _ .A 3 4 sh bt).2.2.2 _ (by rintro _ ⟨⟩; decide +kernel))

theorem witness_head (h : Obligations.HeadIndexes) : Answers (.head .A) (handed (.head 3 4)) :=
  ok ((h _ .A 3 4 sh bt).1 rfl)

theorem witness_change_rack_wait (h : Obligations.ChangeIsJudged) :
    Answers (.change .A) (withProbe { emptyHead (handed (.change 5)) with rack := { base.rack with holder := some .B } } probe5) :=
  ok (((h _ .A 5 sh bt rfl).2.2.2 (by decide) (by decide) (by decide) (.inr ⟨rfl, rfl⟩)).1 rfl)

theorem witness_change_rack_wait_drop (h : Obligations.ChangeIsJudged) :
    Answers (.change .A) { mounted (handed (.change 0)) probe5 with rack := { base.rack with holder := some .B } } :=
  ok (((h _ .A 0 sh bt rfl).2.2.2 (by decide) (by decide) (by decide) (.inl rfl)).1 rfl)

theorem witness_change (h : Obligations.ChangeIsJudged) : Answers (.change .A) (withProbe (emptyHead (handed (.change 5))) probe5) :=
  ok ((((h _ .A 5 sh bt rfl).2.2.2 (by decide) (by decide) (by decide) (.inr ⟨rfl, rfl⟩)).2 (by decide) rfl).1 rfl free)

theorem witness_change_drop (h : Obligations.ChangeIsJudged) : Answers (.change .A) (mounted (handed (.change 0)) probe5) :=
  ok ((((h _ .A 0 sh bt rfl).2.2.2 (by decide) (by decide) (by decide) (.inl rfl)).2 (by decide) rfl).2 5 rfl free)

theorem witness_change_unidentified (h : Obligations.ChangeIsJudged) : Answers (.change .A) (handed (.change 31)) :=
  ok ((h _ .A 31 sh bt rfl).1 planA rfl alone)

theorem witness_change_nothing (h : Obligations.ChangeIsJudged) : Answers (.change .A) (mounted (handed (.change 5)) probe5) :=
  ok ((h _ .A 5 sh bt rfl).2.1 .home 8 (.inl rfl) goes)

theorem witness_change_nothing_empty (h : Obligations.ChangeIsJudged) : Answers (.change .A) (emptyHead (handed (.change 0))) :=
  ok ((h _ .A 0 sh bt rfl).2.1 .home 8 (.inr ⟨rfl, rfl⟩) goes)

theorem witness_change_absent (h : Obligations.ChangeIsJudged) : Answers (.change .A) (emptyHead (handed (.change 5))) :=
  ok (((h _ .A 5 sh bt rfl).2.2.1 (by decide) (by decide) (by decide) calm).1 rfl)

theorem witness_change_forbidden (h : Obligations.ChangeIsJudged) :
    Answers (.change .A) (withProbe (emptyHead (handed (.change 5))) { probe5 with permission := .onlyB }) :=
  ok (((h _ .A 5 sh bt rfl).2.2.1 (by decide) (by decide) (by decide) calm).2 rfl rfl)

theorem witness_repeat (h : Obligations.ControlItems) :
    Answers (.repeatItem .A) (({ handed (.repeatItem 3 ⟨1, 2, 3⟩) with mem := writeBytes mem0 0x10050 ([1, 0, 40] ++ zeros 29 ++ [9]) }).modExec .A (fun e => { e with slotLen := 56 })) :=
  ok ((h.1 _ .A (.move Vec3.zero 9) 40 sh bt rfl rfl).2.2.1 3 ⟨1, 2, 3⟩ rfl (by decide +kernel) (by decide +kernel) fetch_of)

theorem witness_call_target (h : Obligations.ControlItems) : Answers (.call .A) (handed (.call 2)) :=
  ok (((h.2.1 _ .A planA sh bt alone).1 2 rfl).1 (by decide +kernel))

theorem witness_stack_overflow (h : Obligations.ControlItems) :
    Answers (.call .A) ((handed (.call 1)).modExec .A (fun e => { e with stack := List.replicate 16 { slot := 1, index := 0, offset := 0, savedOffset := Vec3.zero, rep := none } })) :=
  ok (((h.2.1 _ .A planA sh bt alone).1 1 rfl).2 (by decide +kernel) (by decide +kernel))

theorem witness_return_at_depth_0 (h : Obligations.ControlItems) : Answers (.returnItem .A) (handed .returnItem) :=
  ok ((h.2.1 _ .A planA sh bt alone).2.1 rfl rfl)

theorem witness_repeat_of_home (h : Obligations.ControlItems) : Answers (.repeatItem .A) (handed (.repeatItem 3 ⟨1, 2, 3⟩)) :=
  ok ((h.2.1 _ .A planA sh bt alone).2.2 3 _ rfl (.inr (by decide +kernel)))

theorem witness_repeat_at_end (h : Obligations.ControlItems) :
    Answers (.repeatItem .A) ((handed (.repeatItem 3 ⟨1, 2, 3⟩)).modExec .A (fun e => { e with offset := 8 })) :=
  ok ((h.2.1 _ .A planA sh bt alone).2.2 3 _ rfl (.inl (by decide +kernel)))

theorem witness_call (h : Obligations.ControlItems) : Answers (.call .A) (handed (.call 1)) :=
  ok ((h.1 _ .A .home 8 sh bt rfl rfl).1 1 rfl (by decide +kernel) (by decide +kernel) fetch_of)

theorem witness_call_warns (h : Obligations.ControlItems) :
    Answers (.call .A) ((handed (.call 1)).modExec .A (fun e => { e with warnArmed := true, slot := 1, stack := List.replicate 13 { slot := 1, index := 0, offset := 0, savedOffset := Vec3.zero, rep := none } })) :=
  ok ((h.1 _ .A .home 8 sh bt rfl rfl).1 1 rfl (by decide +kernel) (by decide +kernel) fetch_of)

theorem witness_return (h : Obligations.ControlItems) :
    Answers (.returnItem .A) ((handed .returnItem).modExec .A (fun e => { e with slot := 1, stack := [{ slot := 0, index := 1, offset := 16, savedOffset := Vec3.zero, rep := none }] })) :=
  ok ((h.1 _ .A .home 8 sh bt rfl rfl).2.1 _ [] rfl rfl fetch_of)

/-- Arm A's DWELL was the last item of library slot 1, called from the item at offset 0 of its plan. -/
def lastOfLibrary : State :=
  dwelt.modExec .A (fun e => { e with
    slot := 1, slotLen := 16, stack := [{ slot := 0, index := 1, offset := 16, savedOffset := Vec3.zero, rep := none }] })

theorem witness_library_ends (h : Obligations.ControlItems) : Answers (.dwellTimerExpiry .A) lastOfLibrary :=
  ok ((h.1 _ .A .home 8 sh bt rfl rfl).2.2.2 _ planA { slot := 0, index := 1, offset := 16, savedOffset := Vec3.zero, rep := none } [] rfl
    (by decide +kernel) ⟨rfl, by decide +kernel, by decide +kernel, .inr (by decide +kernel), by rintro ⟨⟩, by rintro ⟨⟩⟩ (by decide +kernel)
    rfl fetch_of)

theorem witness_update_probe (h : Obligations.ProbeTableItems) :
    Answers (.updateProbe .A) (withProbe (handed (.updateProbe { entry := 5, present := some true, kind := none, identity := some 9, permission := none, homePort := none, speedLimit := none, settle := none, overtravel := none, qualification := some (some 100), orients := none, single := some (7, ⟨1, 2, ⟨3, 4, 5⟩⟩) })) probe5) :=
  ok ((h.1 _ .A sh bt).1 _ .home 8 rfl (by decide +kernel) (by decide +kernel) goes)

theorem witness_locate_null (h : Obligations.ProbeTableItems) : Answers (.setLocation .A) (handed (.setLocation 0 (.arm .A))) :=
  ok ((h.1 _ .A sh bt).2.1 rfl (.inr rfl) .home 8 goes)

theorem witness_locate_null_port (h : Obligations.ProbeTableItems) : Answers (.setLocation .A) (handed (.setLocation 0 (.port 15))) :=
  ok ((h.1 _ .A sh bt).2.2.1 _ _ planA rfl (.inl rfl) (.nullElsewhere _ (by rintro _ ⟨⟩)) alone)

theorem witness_locate_null_carries (h : Obligations.ProbeTableItems) :
    Answers (.setLocation .A) (mounted (handed (.setLocation 0 (.arm .A))) probe5) :=
  ok ((h.1 _ .A sh bt).2.2.1 _ _ planA rfl (.inl rfl) (.carries _ 5 rfl) alone)

theorem witness_locate_other_arm (h : Obligations.ProbeTableItems) :
    Answers (.setLocation .A) (withProbe (handed (.setLocation 5 (.arm .B))) probe5) :=
  ok ((h.1 _ .A sh bt).2.2.1 _ _ planA rfl (.inr rfl) (.otherArm _) alone)

theorem witness_locate_located (h : Obligations.ProbeTableItems) :
    Answers (.setLocation .A) (withProbe (handed (.setLocation 5 (.arm .A))) { probe5 with location := .port 3 }) :=
  ok ((h.1 _ .A sh bt).2.2.1 _ _ planA rfl (.inr rfl) (.located _ (by decide) (by decide)) alone)

theorem witness_locate_port_recorded (h : Obligations.ProbeTableItems) :
    Answers (.setLocation .A) (withProbe { handed (.setLocation 5 (.port 15)) with
      rack := { base.rack with ports := base.rack.ports.set 15 { Port.blank with probe := some 6 } } } probe5) :=
  ok ((h.1 _ .A sh bt).2.2.1 _ _ planA rfl (.inr rfl) (.portRecords _ 6 _ (by decide) rfl) alone)

theorem witness_locate_port_held (h : Obligations.ProbeTableItems) :
    Answers (.setLocation .A) (withProbe { handed (.setLocation 5 (.port 15)) with rack := { base.rack with holder := some .B } } probe5) :=
  ok ((h.1 _ .A sh bt).2.2.1 _ _ planA rfl (.inr rfl) (.portHeld _ _ (by decide) rfl) alone)

theorem witness_locate_unknown_held (h : Obligations.ProbeTableItems) :
    Answers (.setLocation .A) (withProbe { handed (.setLocation 5 .unknown) with rack := { base.rack with holder := some .B } }
      { probe5 with location := .port 3 }) :=
  ok ((h.1 _ .A sh bt).2.2.1 _ _ planA rfl (.inr rfl) (.unknownHeld _ 3 (by decide) rfl rfl) alone)

theorem witness_locate_unknown_other (h : Obligations.ProbeTableItems) :
    Answers (.setLocation .A) (withProbe (handed (.setLocation 5 .unknown)) { probe5 with location := .arm .B }) :=
  ok ((h.1 _ .A sh bt).2.2.1 _ _ planA rfl (.inr rfl) (.unknownOther _ (by decide) rfl) alone)

theorem witness_locate_absent (h : Obligations.ProbeTableItems) : Answers (.setLocation .A) (handed (.setLocation 31 (.arm .B))) :=
  ok ((h.1 _ .A sh bt).2.2.2.1 _ _ rfl (by decide) rfl calm)

theorem witness_locate_unknown (h : Obligations.ProbeTableItems) :
    Answers (.setLocation .A) (withProbe (handed (.setLocation 5 .unknown)) { probe5 with location := .port 3 }) :=
  ok (((h.1 _ .A sh bt).2.2.2.2 5 _ rfl (by decide) rfl).1 3 rfl rfl (by decide) (by decide) .home 8 goes)

theorem witness_locate_unknown_head (h : Obligations.ProbeTableItems) :
    Answers (.setLocation .A) (mounted (handed (.setLocation 5 .unknown)) probe5) :=
  ok (((h.1 _ .A sh bt).2.2.2.2 5 _ rfl (by decide) rfl).2.1 rfl rfl rfl (by decide) .home 8 goes)

theorem witness_locate_unknown_unpowered (h : Obligations.ProbeTableItems) :
    Answers (.setLocation .A) ((mounted (handed (.setLocation 5 .unknown)) probe5).modHead .A (fun k => { k with supplyOn := false, supplyChecked := false })) :=
  ok (((h.1 _ .A sh bt).2.2.2.2 5 _ rfl (by decide) rfl).2.1 rfl rfl rfl (fun _ => rfl) .home 8 goes)

theorem witness_locate_unknown_again (h : Obligations.ProbeTableItems) :
    Answers (.setLocation .A) (withProbe (handed (.setLocation 5 .unknown)) probe5) :=
  ok (((h.1 _ .A sh bt).2.2.2.2 5 _ rfl (by decide) rfl).2.2.1 rfl rfl (by decide) (by decide +kernel) .home 8 goes)

theorem witness_locate_port (h : Obligations.ProbeTableItems) :
    Answers (.setLocation .A) (withProbe (handed (.setLocation 5 (.port 15))) probe5) :=
  ok (((h.1 _ .A sh bt).2.2.2.2 5 _ rfl (by decide) rfl).2.2.2.1 15 rfl rfl rfl (by decide) (by decide +kernel) .home 8 goes)

theorem witness_locate_head (h : Obligations.ProbeTableItems) :
    Answers (.setLocation .A) (withProbe (handed (.setLocation 5 (.arm .A))) probe5) :=
  ok ((((h.1 _ .A sh bt).2.2.2.2 5 _ rfl (by decide) rfl).2.2.2.2 rfl rfl (.inr rfl)).1 rfl)

theorem witness_locate_forbidden (h : Obligations.ProbeTableItems) :
    Answers (.setLocation .A) (withProbe (handed (.setLocation 5 (.arm .A))) { probe5 with permission := .onlyB }) :=
  ok ((((h.1 _ .A sh bt).2.2.2.2 5 _ rfl (by decide) rfl).2.2.2.2 rfl rfl (.inr rfl)).2 rfl calm)

theorem witness_load_map_arm (h : Obligations.CoordinateUnitItems) :
    Answers (.loadMap .A) (handed (.loadMap { arm := 2, i := 1, j := 2, m := 12, count := 2, base := 4094, s0 := 100, nodes := [7, 8] })) :=
  ok (((h _ .A sh bt).1 _ rfl).1 (by decide +kernel))

theorem witness_load_map_range (h : Obligations.CoordinateUnitItems) :
    Answers (.loadMap .A) (handed (.loadMap { arm := 1, i := 1, j := 2, m := 11, count := 2, base := 4094, s0 := 100, nodes := [7, 8] })) :=
  ok (((h _ .A sh bt).1 _ rfl).2.1 (by decide +kernel) (.inr (.inr (by rintro ⟨k, _⟩; revert k; decide +kernel))))

theorem witness_load_map_overlap (h : Obligations.CoordinateUnitItems) :
    Answers (.loadMap .A) { handed (.loadMap { arm := 1, i := 1, j := 2, m := 12, count := 2, base := 4094, s0 := 100, nodes := [7, 8] }) with maps := MapStore.powerOn.setDesc .B .Z .Z (some { s0 := 0, m := 12, count := 2, base := 4093 }) } :=
  ok ((((h _ .A sh bt).1 _ rfl).2.2 .X .Y rfl rfl rfl (by decide +kernel)).1 ⟨.B, .Z, .Z, _, rfl, (by decide +kernel)⟩)

theorem witness_clear_map_arm (h : Obligations.CoordinateUnitItems) : Answers (.clearMap .A) (handed (.clearMap 2 0 3)) :=
  ok (((h _ .A sh bt).2.1 2 0 3 rfl).1 (by decide +kernel))

theorem witness_clear_map_range (h : Obligations.CoordinateUnitItems) : Answers (.clearMap .A) (handed (.clearMap 1 1 4)) :=
  ok (((h _ .A sh bt).2.1 1 1 4 rfl).2 (by decide +kernel) (.inr (by decide +kernel)))

theorem witness_set_part (h : Obligations.CoordinateUnitItems) : Answers (.setPart .A) (handed (.setPart ⟨1, 2, 3⟩ 1170 true)) :=
  ok ((h _ .A sh bt).2.2.2 ⟨1, 2, 3⟩ 1170 true .home 8 rfl goes)

theorem witness_occupied_drop (h : Obligations.RackReportsAreRecorded) :
    Answers (.occupancyReport 3 true) (withProbe (changing .d7 (ago 5 500000)) probe5) :=
  ok (((h _ sh bt).2.2.2.2 .A (chg .d7) _ rfl ⟨rfl, rfl⟩).2.2.1 rfl (by rintro ⟨_, ⟨⟩, _⟩) (by decide +kernel) (by decide) (by decide) |>.1 (by decide +kernel) free)

theorem witness_emptied_pick (h : Obligations.RackReportsAreRecorded) :
    Answers (.occupancyReport 3 false) (changing .p7confirm (ago 5 500000)) :=
  ok (((h _ sh bt).2.2.2.2 .A (chg .p7confirm) _ rfl ⟨rfl, rfl⟩).2.2.2.2 rfl (by rintro ⟨_, ⟨⟩, _⟩) (by decide +kernel))

theorem witness_lid_opens (h : Obligations.RackReportsAreRecorded) : Answers (.lidReport 3 .opened) (changing .p2open (ago 5 2000000)) :=
  ok ((((h _ sh bt).2.2.2.2 .A (chg .p2open) _ rfl ⟨rfl, rfl⟩).2.1 (.inr rfl)).1 free)

theorem witness_lid_opens_for_drop (h : Obligations.RackReportsAreRecorded) :
    Answers (.lidReport 3 .opened) (changing .d2 (ago 5 2000000)) :=
  ok ((((h _ sh bt).2.2.2.2 .A (chg .d2) _ rfl ⟨rfl, rfl⟩).2.1 (.inl rfl)).1 free)

theorem witness_lid_jams (h : Obligations.RackReportsAreRecorded) : Answers (.lidReport 3 .jammed) (changing .d2 (ago 5 2000000)) :=
  ok ((((h _ sh bt).2.2.2.2 .A (chg .d2) _ rfl ⟨rfl, rfl⟩).2.1 (.inl rfl)).2 calm)

theorem witness_drop_done (h : Obligations.RackReportsAreRecorded) :
    Answers (.lidReport 3 .closed) ((emptyHead (changing .d8close (ago 5 2000000))).setChange .A (some { chg .d8close with target := 0 })) :=
  ok (((((h _ sh bt).2.2.2.2 .A { chg .d8close with target := 0 } _ rfl ⟨rfl, rfl⟩).1.1 rfl rfl).1 rfl .home 8).1 rfl goes)

theorem witness_drop_hands_over (h : Obligations.RackReportsAreRecorded) :
    Answers (.lidReport 3 .closed) (rackAwaited ((emptyHead (changing .d8close (ago 5 2000000))).setChange .A (some { chg .d8close with target := 0 }))) :=
  ok (((((h _ sh bt).2.2.2.2 .A { chg .d8close with target := 0 } _ rfl ⟨rfl, rfl⟩).1.1 rfl rfl).1 rfl .home 8).2 6 _ rfl rfl rfl rfl (by decide) rfl goes free)

theorem witness_drop_then_pick (h : Obligations.RackReportsAreRecorded) :
    Answers (.lidReport 3 .closed) (withProbe (emptyHead (changing .d8close (ago 5 2000000))) probe5) :=
  ok ((((h _ sh bt).2.2.2.2 .A (chg .d8close) _ rfl ⟨rfl, rfl⟩).1.1 rfl rfl).2 (by decide) free)

theorem witness_pick_done (h : Obligations.RackReportsAreRecorded) :
    Answers (.lidReport 3 .closed) (mounted (changing .p8 (ago 5 2000000)) probe5) :=
  ok (((((h _ sh bt).2.2.2.2 .A (chg .p8) _ rfl ⟨rfl, rfl⟩).1.2 5 rfl rfl).1 (by decide +kernel) (by decide +kernel) rfl .home 8).1 rfl goes)

theorem witness_pick_hands_over (h : Obligations.RackReportsAreRecorded) :
    Answers (.lidReport 3 .closed) (rackAwaited (mounted (changing .p8 (ago 5 2000000)) probe5)) :=
  ok (((((h _ sh bt).2.2.2.2 .A (chg .p8) _ rfl ⟨rfl, rfl⟩).1.2 5 rfl rfl).1 (by decide +kernel) (by decide +kernel) rfl .home 8).2 6 _ rfl rfl rfl rfl (by decide) rfl goes free)

theorem witness_pick_absent (h : Obligations.RackReportsAreRecorded) :
    Answers (.lidReport 3 .closed) (mounted (changing .p8 (ago 5 2000000)) { probe5 with present := false }) :=
  ok ((((h _ sh bt).2.2.2.2 .A (chg .p8) _ rfl ⟨rfl, rfl⟩).1.2 5 rfl rfl).2 .probeAbsent rfl calm (.inl ⟨by decide +kernel, rfl⟩))

theorem witness_pick_not_permitted (h : Obligations.RackReportsAreRecorded) :
    Answers (.lidReport 3 .closed) (mounted (changing .p8 (ago 5 2000000)) { probe5 with permission := .onlyB }) :=
  ok ((((h _ sh bt).2.2.2.2 .A (chg .p8) _ rfl ⟨rfl, rfl⟩).1.2 5 rfl rfl).2 .probeArm rfl calm (.inr ⟨by decide +kernel, by decide +kernel, rfl⟩))

/-- Arm A's D7 of probe 5, which arm B has declared on its own head meanwhile, where it does this. -/
def declaredAway (d : Doing) : State :=
  (withProbe (other (changing .d7 (ago 5 500000)) d .running) { probe5 with location := .arm .B }).modHead .B (fun k =>
    { k with occ := .probe 5, supplyOn := true, supplyChecked := true, ctx := { index := 5, copy := probe5, state := .ready, selected := none } })

theorem witness_occupied_declared (h : Obligations.RackReportsAreRecorded) :
    Answers (.occupancyReport 3 true) (declaredAway (.dwelling (ago 1 5000))) :=
  ok ((((h _ sh bt).2.2.2.2 .A (chg .d7) _ rfl ⟨rfl, rfl⟩).2.2.1 rfl (by rintro ⟨_, ⟨⟩, _⟩) (by decide +kernel) (by decide) (by decide)).2
    rfl (by decide) free)

theorem witness_occupied_declared_within (h : Obligations.RackReportsAreRecorded) :
    Answers (.occupancyReport 3 true) (declaredAway (.inFlight { seg .pass1 ⟨1000, 1000, 1000⟩ with start := ⟨3000000000, 0, 0⟩ })) :=
  ok ((((h _ sh bt).2.2.2.2 .A (chg .d7) _ rfl ⟨rfl, rfl⟩).2.2.1 rfl (by rintro ⟨_, ⟨⟩, _⟩) (by decide +kernel) (by decide) (by decide)).2
    rfl (by decide) free)

/-- R112: D7's confirmation puts the probe in its port, which records it, wherever it has been declared; the other head has it no longer, and
its context is NONE (R88). -/
theorem test_drop_confirmed_elsewhere :
    let t := confirmDrop .A (declaredAway (.dwelling (ago 1 5000)))
    (t.probe 5).location = .port 3 ∧ (t.rack.port 3).probe = some 5 ∧ (t.arm .B).head.occ = .unidentified ∧ (t.arm .B).head.supplyOn = false ∧
      (t.arm .B).head.ctx = Context.null := by
  decide +kernel

theorem witness_occupied_late (h : Obligations.RackReportsAreRecorded) :
    Answers (.occupancyReport 3 true) (withProbe (changing .d7 (ago 500001 500000)) probe5) :=
  ok (((h _ sh bt).2.2.2.2 .A (chg .d7) _ rfl ⟨rfl, rfl⟩).2.2.2.1 (.inl rfl) (by rintro ⟨_, ⟨⟩, _⟩) (by decide +kernel) true)

theorem witness_emptied_late (h : Obligations.RackReportsAreRecorded) :
    Answers (.occupancyReport 3 false) (changing .p7confirm (ago 500001 500000)) :=
  ok (((h _ sh bt).2.2.2.2 .A (chg .p7confirm) _ rfl ⟨rfl, rfl⟩).2.2.2.1 (.inr rfl) (by rintro ⟨_, ⟨⟩, _⟩) (by decide +kernel) false)

theorem witness_lid_report (h : Obligations.RackReportsAreRecorded) : Answers (.lidReport 15 .opened) base :=
  ok ((h _ sh bt).1 15 .opened (by rintro _ _ _ ⟨⟩))

theorem witness_locked (h : Obligations.ChangeStepsAreConfirmed) :
    Answers (.couplingLocked ⟨.A, (ago 5 500000).start⟩) (withProbe (changing .p3lock (ago 5 500000)) probe5) :=
  ok (((h _ .A sh bt).1 _ _ ⟨rfl, rfl⟩).1 rfl (by decide +kernel))

theorem witness_unlocked (h : Obligations.ChangeStepsAreConfirmed) :
    Answers (.couplingUnlocked ⟨.A, (ago 5 500000).start⟩) (changing .d5 (ago 5 500000)) :=
  ok (((h _ .A sh bt).1 _ _ ⟨rfl, rfl⟩).2.1 rfl (by decide +kernel))

theorem witness_unlocked_after_lock (h : Obligations.ChangeStepsAreConfirmed) :
    Answers (.couplingUnlocked ⟨.A, (ago 5 500000).start⟩) (changing .p3unlock (ago 5 500000)) :=
  ok (((h _ .A sh bt).1 _ _ ⟨rfl, rfl⟩).2.2 rfl)

theorem witness_coupling_dropped (h : Obligations.ChangeStepsAreConfirmed) : Answers (.couplingLocked ⟨.A, 0⟩) base :=
  ok (((h _ .A sh bt).2 0 (by rintro _ _ ⟨_, ⟨⟩⟩)).1)

theorem witness_coupling_of_abandoned (h : Obligations.ChangeStepsAreConfirmed) :
    Answers (.couplingUnlocked ⟨.A, (ago 6 0).start⟩) (changing .d5 (ago 5 500000)) :=
  ok (((h _ .A sh bt).2 _ (by rintro _ _ ⟨⟨⟩, ⟨⟩⟩; decide +kernel)).2)

theorem witness_lid_timeout_drop (h : Obligations.ChangeTimersRunOut) : Answers (.lidTimerExpiry .A) (changing .d2 (ago 500000 500000)) :=
  ok (((h _ .A (chg .d2) (ago 500000 500000) sh bt ⟨rfl, rfl⟩).1 (by decide +kernel) calm).1 rfl)

theorem witness_lid_timeout_pick (h : Obligations.ChangeTimersRunOut) :
    Answers (.lidTimerExpiry .A) (changing .p2open (ago 500000 500000)) :=
  ok (((h _ .A (chg .p2open) (ago 500000 500000) sh bt ⟨rfl, rfl⟩).1 (by decide +kernel) calm).2.1 rfl)

theorem witness_lid_timeout_close (h : Obligations.ChangeTimersRunOut) : Answers (.lidTimerExpiry .A) (changing .p8 (ago 500000 500000)) :=
  ok (((h _ .A (chg .p8) (ago 500000 500000) sh bt ⟨rfl, rfl⟩).1 (by decide +kernel) calm).2.2.1 (.inr rfl))

theorem witness_release_fault (h : Obligations.ChangeTimersRunOut) : Answers (.releaseTimerExpiry .A) (changing .d5 (ago 500000 500000)) :=
  ok (((h _ .A (chg .d5) (ago 500000 500000) sh bt ⟨rfl, rfl⟩).1 (by decide +kernel) calm).2.2.2.1 rfl)

theorem witness_drop_unconfirmed (h : Obligations.ChangeTimersRunOut) :
    Answers (.dropConfirmTimeout .A) (changing .d7 (ago 500000 500000)) :=
  ok (((h _ .A (chg .d7) (ago 500000 500000) sh bt ⟨rfl, rfl⟩).1 (by decide +kernel) calm).2.2.2.2.1 rfl)

theorem witness_pick_unconfirmed (h : Obligations.ChangeTimersRunOut) :
    Answers (.pickConfirmTimeout .A) (changing .p7confirm (ago 500000 500000)) :=
  ok (((h _ .A (chg .p7confirm) (ago 500000 500000) sh bt ⟨rfl, rfl⟩).1 (by decide +kernel) calm).2.2.2.2.2.1 rfl)

theorem witness_lock_fault (h : Obligations.ChangeTimersRunOut) :
    Answers (.lockTimerExpiry .A) { changing .p3lock (ago 500000 500000) with inst := { consts with lockRetries := 0 } } :=
  ok (((h _ .A (chg .p3lock) (ago 500000 500000) sh bt ⟨rfl, rfl⟩).1 (by decide +kernel) calm).2.2.2.2.2.2.1 rfl (by decide +kernel))

theorem witness_lock_again (h : Obligations.ChangeTimersRunOut) : Answers (.lockTimerExpiry .A) (changing .p3lock (ago 500000 500000)) :=
  ok (((h _ .A (chg .p3lock) (ago 500000 500000) sh bt ⟨rfl, rfl⟩).1 (by decide +kernel) calm).2.2.2.2.2.2.2.1 rfl (by decide +kernel))

theorem witness_unlock_wait (h : Obligations.ChangeTimersRunOut) :
    Answers (.unlockWaitExpiry .A) (changing .p3unlock (ago 500000 500000)) :=
  ok (((h _ .A (chg .p3unlock) (ago 500000 500000) sh bt ⟨rfl, rfl⟩).1 (by decide +kernel) calm).2.2.2.2.2.2.2.2 rfl)

theorem witness_change_timer_early (h : Obligations.ChangeTimersRunOut) :
    Answers (.lockTimerExpiry .A) (changing .p3lock (ago 499999 500000)) :=
  ok ((h _ .A (chg .p3lock) (ago 499999 500000) sh bt ⟨rfl, rfl⟩).2 (by decide +kernel) _ (by simp))

theorem witness_supply_of_pick (h : Obligations.SupplyAndIdentity) :
    Answers (.supplyCheck .A 300) (mounted (changing .p5 (ago 20000 20000)) probe5) :=
  ok (((h _ .A _ sh bt).2.1 (chg .p5) 300 ⟨rfl, rfl⟩ rfl (by decide +kernel)).1 (by decide +kernel))

theorem witness_supply_of_pick_over (h : Obligations.SupplyAndIdentity) :
    Answers (.supplyCheck .A 301) (mounted (changing .p5 (ago 20000 20000)) probe5) :=
  ok (((h _ .A _ sh bt).2.1 (chg .p5) 301 ⟨rfl, rfl⟩ rfl (by decide +kernel)).2 5 (by decide +kernel) rfl rfl calm)

theorem witness_identity (h : Obligations.SupplyAndIdentity) :
    Answers (.identityReply .A ⟨(ago 5 100000).start, some 77⟩) (withProbe (busy (.locating true (ago 5 100000)) (some (.setLocation 5 (.arm .A)))) probe5) :=
  ok (((h _ .A _ sh bt).2.2.2.1 5 _ 77 rfl rfl).1  .home 8 (by decide +kernel) rfl rfl rfl rfl goes)

theorem witness_identity_differs (h : Obligations.SupplyAndIdentity) :
    Answers (.identityReply .A ⟨(ago 5 100000).start, some 78⟩) ((withProbe (busy (.locating true (ago 5 100000)) (some (.setLocation 5 (.arm .A)))) probe5).modHead .A (fun k => { k with supplyOn := true })) :=
  ok (((h _ .A _ sh bt).2.2.2.1 5 _ 78 rfl rfl).2.2 planA (by decide +kernel) (by decide +kernel) rfl alone)

/-- Arm A's SET_LOCATION of probe 5 awaits the identity; entry 5 has changed meanwhile. -/
def locatingChanged (p : Probe) : State :=
  (withProbe (busy (.locating true (ago 5 100000)) (some (.setLocation 5 (.arm .A)))) p).modHead .A (fun k => { k with supplyOn := true })

theorem witness_identity_absent (h : Obligations.SupplyAndIdentity) :
    Answers (.identityReply .A ⟨(ago 5 100000).start, some 77⟩) (locatingChanged { probe5 with present := false }) :=
  ok ((((h _ .A _ sh bt).2.2.2.1 5 _ 77 rfl rfl).2.1 (by decide +kernel) rfl rfl).1 rfl calm)

theorem witness_identity_forbidden (h : Obligations.SupplyAndIdentity) :
    Answers (.identityReply .A ⟨(ago 5 100000).start, some 77⟩) (locatingChanged { probe5 with permission := .onlyB }) :=
  ok ((((h _ .A _ sh bt).2.2.2.1 5 _ 77 rfl rfl).2.1 (by decide +kernel) rfl rfl).2.1 rfl rfl calm)

theorem witness_identity_located (h : Obligations.SupplyAndIdentity) :
    Answers (.identityReply .A ⟨(ago 5 100000).start, some 77⟩) (locatingChanged { probe5 with location := .port 3 }) :=
  ok ((((h _ .A _ sh bt).2.2.2.1 5 _ 77 rfl rfl).2.1 (by decide +kernel) rfl rfl).2.2 planA rfl rfl (by decide) alone)

theorem witness_identity_timeout (h : Obligations.SupplyAndIdentity) :
    Answers (.identityTimeout .A) (mounted (changing .p6 (ago 100000 100000)) probe5) :=
  ok (((h _ .A _ sh bt).2.2.2.2.2.1 (chg .p6) ⟨rfl, rfl⟩ rfl).1 (by decide +kernel) (by decide) calm)

theorem witness_identity_timeout_unsupplied (h : Obligations.SupplyAndIdentity) :
    Answers (.identityTimeout .A) (unpowered (changing .p6 (ago 100000 100000))) :=
  ok (((h _ .A _ sh bt).2.2.2.2.2.1 (chg .p6) ⟨rfl, rfl⟩ rfl).1 (by decide +kernel) (by decide) calm)

theorem witness_identity_timer_early (h : Obligations.SupplyAndIdentity) :
    Answers (.identityTimeout .A) (mounted (changing .p6 (ago 99999 100000)) probe5) :=
  ok (((h _ .A _ sh bt).2.2.2.2.2.1 (chg .p6) ⟨rfl, rfl⟩ rfl).2.1 (by decide +kernel))

theorem witness_pick_identity_differs (h : Obligations.SupplyAndIdentity) :
    Answers (.identityReply .A ⟨(ago 5 100000).start, some 78⟩) (mounted (changing .p6 (ago 5 100000)) probe5) :=
  ok (((h _ .A _ sh bt).2.2.2.2.2.1 (chg .p6) ⟨rfl, rfl⟩ rfl).2.2.1 (some 78) (.inl (by rintro _ ⟨⟩; decide +kernel)) (by decide) calm)

theorem witness_pick_identity (h : Obligations.SupplyAndIdentity) :
    Answers (.identityReply .A ⟨(ago 5 100000).start, some 77⟩) (mounted (changing .p6 (ago 5 100000)) probe5) :=
  ok (((h _ .A _ sh bt).2.2.2.2.2.1 (chg .p6) ⟨rfl, rfl⟩ rfl).2.2.2 77 (by decide +kernel) (by decide +kernel) free)

theorem witness_resume_mismatch (h : Obligations.SupplyAndIdentity) :
    Answers (.resume .armA) { ((faulted .identMismatch (.changeStep .mismatch) (some (.change 5))).setChange .A (some { chg .mismatch with opened := [3] })) with rack := { base.rack with holder := some .A, ports := base.rack.ports.set 3 { Port.blank with lid := .opened } } } :=
  ok ((h _ .A (ago 5 5) sh bt).2.2.2.2.2.2.2 planA _ ⟨.inr ⟨rfl, by decide⟩, by rintro _ _ ⟨⟩, rfl⟩ rfl rfl rfl rfl rfl alone)

theorem witness_identity_none (h : Obligations.SupplyAndIdentity) :
    Answers (.identityReply .A ⟨(ago 5 100000).start, none⟩) ((withProbe (busy (.locating true (ago 5 100000)) (some (.setLocation 5 (.arm .A)))) probe5).modHead .A (fun k => { k with supplyOn := true })) :=
  ok ((((h _ .A _ sh bt).2.2.2.2.1 rfl).2 planA rfl alone).1 none (.inl rfl))

theorem witness_identity_late (h : Obligations.SupplyAndIdentity) :
    Answers (.identityTimeout .A) ((withProbe (busy (.locating true (ago 100000 100000)) (some (.setLocation 5 (.arm .A)))) probe5).modHead .A (fun k => { k with supplyOn := true, occ := .unidentified })) :=
  ok ((((h _ .A _ sh bt).2.2.2.2.1 rfl).2 planA rfl alone).2 (by decide +kernel))

theorem witness_identity_early (h : Obligations.SupplyAndIdentity) :
    Answers (.identityTimeout .A) (withProbe (busy (.locating true (ago 99999 100000)) (some (.setLocation 5 (.arm .A)))) probe5) :=
  ok (((h _ .A _ sh bt).2.2.2.2.1 rfl).1 (by decide +kernel))

theorem witness_pick_identity_none (h : Obligations.SupplyAndIdentity) :
    Answers (.identityReply .A ⟨(ago 5 100000).start, none⟩) (mounted (changing .p6 (ago 5 100000)) probe5) :=
  ok (((h _ .A _ sh bt).2.2.2.2.2.1 (chg .p6) ⟨rfl, rfl⟩ rfl).2.2.1 none (.inl (by rintro _ ⟨⟩)) (by decide) calm)

theorem witness_identity_too_late (h : Obligations.SupplyAndIdentity) :
    Answers (.identityReply .A ⟨(ago 100001 100000).start, some 77⟩) ((withProbe (busy (.locating true (ago 100001 100000)) (some (.setLocation 5 (.arm .A)))) probe5).modHead .A (fun k => { k with supplyOn := true })) :=
  ok ((((h _ .A _ sh bt).2.2.2.2.1 rfl).2 planA rfl alone).1 (some 77) (.inr (by decide +kernel)))

theorem witness_pick_identity_too_late (h : Obligations.SupplyAndIdentity) :
    Answers (.identityReply .A ⟨(ago 100001 100000).start, some 77⟩) (mounted (changing .p6 (ago 100001 100000)) probe5) :=
  ok (((h _ .A _ sh bt).2.2.2.2.2.1 (chg .p6) ⟨rfl, rfl⟩ rfl).2.2.1 (some 77) (.inr (by decide +kernel)) (by decide) calm)

theorem witness_identity_of_abandoned (h : Obligations.SupplyAndIdentity) :
    Answers (.identityReply .A ⟨(ago 6 0).start, some 77⟩) (withProbe (busy (.locating true (ago 5 100000)) (some (.setLocation 5 (.arm .A)))) probe5) :=
  ok ((h _ .A _ sh bt).2.2.2.2.2.2.1 (.inl rfl) _ (some 77) (by decide +kernel))

theorem witness_pick_identity_of_abandoned (h : Obligations.SupplyAndIdentity) :
    Answers (.identityReply .A ⟨(ago 6 0).start, some 77⟩) (mounted (changing .p6 (ago 5 100000)) probe5) :=
  ok ((h _ .A _ sh bt).2.2.2.2.2.2.1 (.inr ⟨chg .p6, ⟨rfl, rfl⟩, rfl⟩) _ (some 77) (by decide +kernel))

theorem witness_supply_passes (h : Obligations.SupplyAndIdentity) :
    Answers (.supplyCheck .A 300) (withProbe (busy (.locating false (ago 20000 20000)) (some (.setLocation 5 (.arm .A)))) probe5) :=
  ok (((h _ .A _ sh bt).1 300 rfl (by decide +kernel)).1 (by decide +kernel))

theorem witness_supply_over (h : Obligations.SupplyAndIdentity) :
    Answers (.supplyCheck .A 301) ((withProbe (busy (.locating false (ago 20000 20000)) (some (.setLocation 5 (.arm .A)))) probe5).modHead .A (fun k => { k with supplyOn := true })) :=
  ok (((h _ .A _ sh bt).1 301 rfl (by decide +kernel)).2 (by decide +kernel) rfl calm)

theorem witness_current_within (h : Obligations.SupplyAndIdentity) : Answers (.overcurrent .A 300) (mounted base probe5) :=
  ok (((h _ .A (ago 0 0) sh bt).2.2.1 300 rfl rfl).1 (by decide +kernel))

theorem witness_overcurrent (h : Obligations.SupplyAndIdentity) : Answers (.overcurrent .A 301) (mounted base probe5) :=
  ok ((((h _ .A (ago 0 0) sh bt).2.2.1 301 rfl rfl).2 (by decide +kernel)).1 rfl)

theorem witness_overcurrent_flying (h : Obligations.SupplyAndIdentity) :
    Answers (.overcurrent .A 301) (mounted (stopping .move { Stop.plain with hold := true }) probe5) :=
  ok ((((h _ .A (ago 0 0) sh bt).2.2.1 301 rfl rfl).2 (by decide +kernel)).2.1 _ rfl)

theorem witness_overcurrent_ending (h : Obligations.SupplyAndIdentity) :
    Answers (.overcurrent .A 301) (mounted (busy (.ending .aborted .none)) probe5) :=
  ok (((((h _ .A (ago 0 0) sh bt).2.2.1 301 rfl rfl).2 (by decide +kernel)).2.2.1 _ _ rfl).1 (by decide))

theorem witness_overcurrent_withdrawn (h : Obligations.SupplyAndIdentity) :
    Answers (.overcurrent .A 301) (mounted (busy (.ending .withdrawn .none)) probe5) :=
  ok (((((h _ .A (ago 0 0) sh bt).2.2.1 301 rfl rfl).2 (by decide +kernel)).2.2.1 _ _ rfl).2 rfl)

theorem witness_overcurrent_dwell (h : Obligations.SupplyAndIdentity) :
    Answers (.overcurrent .A 301) (mounted (busy (.dwelling (ago 1 5000))) probe5) :=
  ok (((((h _ .A (ago 0 0) sh bt).2.2.1 301 rfl rfl).2 (by decide +kernel)).2.2.2.1 rfl calm).1 _ _ _ (.dwell _ rfl) (.activity _ (.inl rfl)) (by rintro _ _ ⟨⟩)
    (by rintro _ _ ⟨⟨⟩, _⟩) (by rintro _ ⟨⟩))

theorem witness_overcurrent_index (h : Obligations.SupplyAndIdentity) :
    Answers (.overcurrent .A 301) (mounted (busy (.indexing (ago 5 3000000)) (some (.head 3 4))) probe5) :=
  ok (((((h _ .A (ago 0 0) sh bt).2.2.1 301 rfl rfl).2 (by decide +kernel)).2.2.2.1 rfl calm).1 _ _ _
    (.other _ _ (.index _ rfl) (by rintro _ ⟨⟩) (by rintro ⟨⟩)) (.activity _ (.inr rfl)) (by rintro _ _ ⟨⟩) (by rintro _ _ ⟨⟨⟩, _⟩)
    (by rintro _ ⟨⟩))

theorem witness_overcurrent_drives (h : Obligations.SupplyAndIdentity) :
    Answers (.overcurrent .A 301) (mounted (busy (.driveWait (seg .move ⟨1000, 1000, 1000⟩).req 10000 ⟨true, true, false⟩ (ago 5 1000000))) probe5) :=
  ok (((((h _ .A (ago 0 0) sh bt).2.2.1 301 rfl rfl).2 (by decide +kernel)).2.2.2.1 rfl calm).1 _ _ _ (.other _ _ (.drives _ _ _ _ rfl rfl) (by rintro _ ⟨⟩) (by rintro ⟨⟩)) (.move _ rfl (.inr ⟨_, _, _, rfl⟩)) (by rintro _ _ ⟨⟩)
    (by rintro _ _ ⟨⟨⟩, _⟩) (by rintro _ ⟨⟩))

theorem witness_overcurrent_pass_drives (h : Obligations.SupplyAndIdentity) :
    Answers (.overcurrent .A 301) (mounted (busy (.driveWait (seg .pass1 ⟨1000, 1000, 1000⟩).req 10000 ⟨true, true, false⟩ (ago 5 1000000))) probe5) :=
  ok (((((h _ .A (ago 0 0) sh bt).2.2.1 301 rfl rfl).2 (by decide +kernel)).2.2.2.1 rfl calm).1 _ _ _ (.other _ _ (.drives _ _ _ _ rfl rfl) (by rintro _ ⟨⟩) (by rintro ⟨⟩)) (.phase _ (by decide)) (by rintro _ _ ⟨⟩)
    (by rintro _ _ ⟨⟨⟩, _⟩) (by rintro _ ⟨⟩))

theorem witness_overcurrent_shadow (h : Obligations.SupplyAndIdentity) :
    Answers (.overcurrent .A 301) (mounted (busy (.shadowWait (seg .pass1 ⟨1000, 1000, 1000⟩).req)) probe5) :=
  ok (((((h _ .A (ago 0 0) sh bt).2.2.1 301 rfl rfl).2 (by decide +kernel)).2.2.2.1 rfl calm).1 _ _ _ (.other _ _ (.shadow _ rfl rfl) (by rintro _ ⟨⟩) (by rintro ⟨⟩)) (.shadow _ rfl) (by rintro _ _ ⟨⟩)
    (by rintro _ _ ⟨⟨⟩, _⟩) (by rintro _ ⟨⟩))

theorem witness_overcurrent_held_move (h : Obligations.SupplyAndIdentity) :
    Answers (.overcurrent .A 301) (mounted (held (.segment (seg .move ⟨1000, 1000, 1000⟩).req)) probe5) :=
  ok (((((h _ .A (ago 0 0) sh bt).2.2.1 301 rfl rfl).2 (by decide +kernel)).2.2.2.1 rfl calm).1 _ _ _ (.other _ _ (.standing rfl) (by rintro _ ⟨⟩) (by rintro ⟨⟩)) (.move _ rfl (.inl rfl)) (by rintro _ _ ⟨⟩)
    (by rintro _ _ ⟨⟨⟩, _⟩) (by rintro _ ⟨⟩))

theorem witness_overcurrent_held_pass (h : Obligations.SupplyAndIdentity) :
    Answers (.overcurrent .A 301) (mounted (held (.segment (seg .pass1 ⟨1000, 1000, 1000⟩).req)) probe5) :=
  ok (((((h _ .A (ago 0 0) sh bt).2.2.1 301 rfl rfl).2 (by decide +kernel)).2.2.2.1 rfl calm).1 _ _ _ (.other _ _ (.standing rfl) (by rintro _ ⟨⟩) (by rintro ⟨⟩)) (.phase _ (by decide)) (by rintro _ _ ⟨⟩)
    (by rintro _ _ ⟨⟨⟩, _⟩) (by rintro _ ⟨⟩))

theorem witness_overcurrent_held_dwell (h : Obligations.SupplyAndIdentity) :
    Answers (.overcurrent .A 301) (mounted (held (.dwell 7) (some (.dwell 20))) probe5) :=
  ok (((((h _ .A (ago 0 0) sh bt).2.2.1 301 rfl rfl).2 (by decide +kernel)).2.2.2.1 rfl calm).1 _ _ _ (.paused 7 rfl rfl) (.again _ rfl (.inl ⟨_, rfl⟩)) (by rintro _ _ ⟨⟩)
    (by rintro _ _ ⟨⟨⟩, _⟩) (by rintro _ ⟨⟩))

theorem witness_overcurrent_held_wait (h : Obligations.SupplyAndIdentity) :
    Answers (.overcurrent .A 301) (mounted (held (.zones (seg .move ⟨1000, 1000, 1000⟩).req)) probe5) :=
  ok (((((h _ .A (ago 0 0) sh bt).2.2.1 301 rfl rfl).2 (by decide +kernel)).2.2.2.1 rfl calm).1 _ _ _ (.other _ _ (.standing rfl) (by rintro _ ⟨⟩) (by rintro ⟨⟩)) (.keeps _ (by rintro ⟨⟩) (by rintro _ ⟨⟩)) (by rintro _ _ ⟨⟩)
    (by rintro _ _ ⟨⟨⟩, _⟩) (by rintro _ ⟨⟩))

theorem witness_overcurrent_held_fetched (h : Obligations.SupplyAndIdentity) :
    Answers (.overcurrent .A 301) (mounted (held .item (some .home)) probe5) :=
  ok (((((h _ .A (ago 0 0) sh bt).2.2.1 301 rfl rfl).2 (by decide +kernel)).2.2.2.1 rfl calm).1 _ _ _ (.other _ _ (.standing rfl) (by rintro _ ⟨⟩) (by rintro ⟨⟩)) (.fetched _ rfl (.inl rfl) (by rintro _ ⟨⟩) (by rintro _ _ ⟨⟩)) (by rintro _ _ ⟨⟩)
    (by rintro _ _ ⟨⟨⟩, _⟩) (by rintro _ ⟨⟩))

theorem witness_overcurrent_sample (h : Obligations.SupplyAndIdentity) :
    Answers (.overcurrent .A 301) (mounted (busy (.awaitSample (seg (.leg 1) ⟨1000, 1000, 1000⟩).req) (some (.scan aScan))) probe5) :=
  ok (((((h _ .A (ago 0 0) sh bt).2.2.1 301 rfl rfl).2 (by decide +kernel)).2.2.2.1 rfl calm).1 _ _ _ (.other _ _ (.sample _ rfl) (by rintro _ ⟨⟩) (by rintro ⟨⟩)) (.phase _ (by decide)) (by rintro _ _ ⟨⟩)
    (by rintro _ _ ⟨⟨⟩, _⟩) (by rintro _ ⟨⟩))

/-- R101: a MOVE whose start awaits its drives, and one at which the arm is HELD, leave Boundary; a pass at which it is HELD stays (R122). -/
theorem test_overcurrent_points :
    supplyPoint (.driveWait (seg .move ⟨1000, 1000, 1000⟩).req 10000 ⟨true, true, false⟩ (ago 5 1000000)) none (.segment (seg .move ⟨1000, 1000, 1000⟩).req) = .boundary ∧
    supplyPoint .nothing none (.segment (seg .move ⟨1000, 1000, 1000⟩).req) = .boundary ∧ supplyPoint .nothing none (.segment (seg .pass1 ⟨1000, 1000, 1000⟩).req) = .segment (seg .pass1 ⟨1000, 1000, 1000⟩).req := by decide

theorem witness_overcurrent_fetched (h : Obligations.SupplyAndIdentity) : Answers (.overcurrent .A 301) (mounted (handed (.change 5)) probe5) :=
  ok (((((h _ .A (ago 0 0) sh bt).2.2.1 301 rfl rfl).2 (by decide +kernel)).2.2.2.1 rfl calm).1 _ _ _ (.fetched rfl)
    (.fetched _ rfl (.inr rfl) (by rintro _ ⟨⟩) (by rintro _ _ ⟨⟩)) (by rintro _ _ ⟨⟩) (by rintro _ _ ⟨⟨⟩, _⟩) (by rintro _ ⟨⟩; rfl))

theorem witness_overcurrent_locating (h : Obligations.SupplyAndIdentity) :
    Answers (.overcurrent .A 301) ((locatingChanged probe5).modHead .A (fun k => { k with supplyChecked := true })) :=
  ok (((((h _ .A (ago 0 0) sh bt).2.2.1 301 rfl rfl).2 (by decide +kernel)).2.2.2.1 rfl calm).2.1 _ _ rfl)

theorem witness_overcurrent_identity (h : Obligations.SupplyAndIdentity) :
    Answers (.overcurrent .A 301) (mounted (changing .p6 (ago 5 100000)) probe5) :=
  ok (((((h _ .A (ago 0 0) sh bt).2.2.1 301 rfl rfl).2 (by decide +kernel)).2.2.2.1 rfl calm).2.2.1 (chg .p6) _ ⟨rfl, rfl⟩ (.inr rfl))

/-- R101: an overcurrent in P6 leaves that step as the resume point, and its RESUME asks for the identity and switches no supply on. -/
theorem test_overcurrent_in_identity_step :
    let t := execOvercurrent .A 301 (mounted (changing .p6 (ago 5 100000)) probe5)
    (match t with
      | .next u => decide ((u.arm .A).mot.state = .faulted ∧ (u.arm .A).mot.resume = some (.changeStep .p6) ∧
          (u.arm .A).head.supplyOn = false ∧ (u.arm .A).head.ctx.state = .unpowered)
      | _ => false) = true ∧
    (let u := restartChange .A .p6 (unpowered (heldChange .p6))
     u.out = [.identityRequest .A] ∧ (u.arm .A).head.supplyOn = false ∧ (u.arm .A).head.ctx.state = .unpowered) := by
  decide +kernel

theorem witness_overcurrent_mark (h : Obligations.SupplyAndIdentity) : Answers (.overcurrent .A 301) (mounted (handed (.mark 9)) probe5) :=
  ok (((((h _ .A (ago 0 0) sh bt).2.2.1 301 rfl rfl).2 (by decide +kernel)).2.2.2.1 rfl calm).2.2.2 _ rfl rfl)

theorem witness_overcurrent_faulted (h : Obligations.SupplyAndIdentity) :
    Answers (.overcurrent .A 301) (mounted (faulted .scaleFault .boundary) probe5) :=
  ok (((((h _ .A (ago 0 0) sh bt).2.2.1 301 rfl rfl).2 (by decide +kernel)).2.2.2.2 rfl (.inl rfl) (by rintro _ ⟨⟩) (by rintro _ _ ⟨⟩)).1
    (by rintro _ _ ⟨⟩))

theorem witness_overcurrent_estop_locating (h : Obligations.SupplyAndIdentity) :
    Answers (.overcurrent .A 301) (((locatingChanged probe5).modHead .A (fun k => { k with supplyChecked := true })).setArmState .A .estop) :=
  ok (((((h _ .A (ago 0 0) sh bt).2.2.1 301 rfl rfl).2 (by decide +kernel)).2.2.2.2 rfl (.inr rfl) (by rintro _ ⟨⟩) (by rintro _ _ ⟨⟩)).2 _ _ rfl)

theorem witness_late_trigger (h : Obligations.TriggersAndShadow) : Answers (.trigger .A lateEdge) (flyingSeg .pass1) :=
  ok (((h _ .A sh bt).1 lateEdge).2 (by rintro _ ⟨⟩; exact .inr (.inr (.inr (.inr (by decide +kernel))))))

theorem witness_trigger_in_pass (h : Obligations.TriggersAndShadow) : Answers (.trigger .A anEdge) (flyingSeg .pass1) :=
  ok ((((h _ .A sh bt).1 anEdge).1 _ rfl (by decide +kernel) rfl rfl rfl rfl).1 rfl)

theorem witness_trigger_in_move (h : Obligations.TriggersAndShadow) : Answers (.trigger .A anEdge) (flyingSeg .move) :=
  ok ((((h _ .A sh bt).1 anEdge).1 _ rfl (by decide +kernel) rfl rfl rfl rfl).2 rfl)

theorem witness_trigger_ignored (h : Obligations.TriggersAndShadow) : Answers (.trigger .A anEdge) (flyingSeg (.leg 1)) :=
  ok (((h _ .A sh bt).1 anEdge).2 (by rintro _ ⟨⟩; exact .inl rfl))

theorem witness_shadow_end (h : Obligations.TriggersAndShadow) :
    Answers (.shadowEnd .A) (base.modHead .A (fun k => { k with shadow := some (ago 20000 20000) })) :=
  ok (((h _ .A sh bt).2 _ rfl).1 (by decide +kernel) |>.1 (by rintro _ ⟨⟩))

theorem witness_shadow_wait_ends (h : Obligations.TriggersAndShadow) :
    Answers (.shadowEnd .A) ((mounted (busy (.shadowWait (seg .pass1 ⟨0, 0, 5000⟩).req)) probe5).modHead .A (fun k => { k with shadow := some (ago 20000 20000) })) :=
  ok (((h _ .A sh bt).2 _ rfl).1 (by decide +kernel) |>.2 _ rfl probes)

theorem witness_shadow_early (h : Obligations.TriggersAndShadow) :
    Answers (.shadowEnd .A) (base.modHead .A (fun k => { k with shadow := some (ago 19999 20000) })) :=
  ok (((h _ .A sh bt).2 _ rfl).2 (by decide +kernel))

theorem witness_sample_instant (h : Obligations.SamplesOfAScan) : Answers (.sampleTimerExpiry .A noCounts) (sampling 0 none) :=
  ok ((((h.1 _ .A sh bt).2 aScan rfl).1 noCounts _ rfl (by decide +kernel)).1 rfl)

theorem witness_sample_overtaken (h : Obligations.SamplesOfAScan) : Answers (.sampleTimerExpiry .A noCounts) (sampling 99 (some aSample)) :=
  ok (((((h.1 (sampling 99 (some aSample)) .A sh bt).2 aScan rfl).1 noCounts _ rfl (by decide +kernel)).2 _ rfl).2 planA page7 (by decide) rfl one)

theorem witness_sample_overtaken_full (h : Obligations.SamplesOfAScan) : Answers (.sampleTimerExpiry .A noCounts) (sampling 100 (some aSample)) :=
  ok (((((h.1 (sampling 100 (some aSample)) .A sh bt).2 aScan rfl).1 noCounts _ rfl (by decide +kernel)).2 _ rfl).1 (by decide))

theorem witness_reply_for_none (h : Obligations.SamplesOfAScan) : Answers (.deflectionReply .A ⟨0, Axes.all3 0⟩) (sampling 0 none) :=
  ok ((h.1 _ .A sh bt).1 _ (by rintro _ ⟨⟩))

theorem witness_reply_for_earlier (h : Obligations.SamplesOfAScan) :
    Answers (.deflectionReply .A ⟨4, Axes.all3 0⟩) (sampling 0 (some aSample)) :=
  ok ((h.1 _ .A sh bt).1 _ (by rintro _ ⟨⟩; decide +kernel))

/-- Arm A with the sample in flight of `sampling`, doing something else. -/
def settling (points : Nat) (d : Doing) (st : ArmState) : State :=
  (sampling points (some aSample)).modMot .A (fun m => { m with doing := d, state := st, resume := some .boundary })

theorem witness_overtravel (h : Obligations.SamplesOfAScan) :
    Answers (.deflectionReply .A ⟨5, ⟨0, 100001, 0⟩⟩) (sampling 0 (some aSample)) :=
  ok (((((h.1 (sampling 0 (some aSample)) .A sh bt).2 aScan rfl).2 aSample (some ⟨0, 100001, 0⟩) rfl (by rintro ⟨⟩)).1 ⟨_, rfl, by decide⟩).1 _ rfl)

theorem witness_overtravel_stopping (h : Obligations.SamplesOfAScan) :
    Answers (.deflectionReply .A ⟨5, ⟨0, 100001, 0⟩⟩) ((sampling 0 (some aSample)).modMot .A (fun m => { m with stop := some { Stop.plain with hold := true } })) :=
  ok (((((h.1 ((sampling 0 (some aSample)).modMot .A (fun m => { m with stop := some { Stop.plain with hold := true } })) .A sh bt).2 aScan rfl).2
    aSample (some ⟨0, 100001, 0⟩) rfl (by rintro ⟨⟩)).1 ⟨_, rfl, by decide⟩).1 _ rfl)

theorem witness_overtravel_last (h : Obligations.SamplesOfAScan) :
    Answers (.deflectionReply .A ⟨5, ⟨0, 100001, 0⟩⟩) (settling 0 (.awaitSample (seg (.leg 1) Vec3.zero).req) .running) :=
  ok (((((h.1 (settling 0 (.awaitSample (seg (.leg 1) Vec3.zero).req) .running) .A sh bt).2 aScan rfl).2 aSample (some ⟨0, 100001, 0⟩) rfl
    (by rintro ⟨⟩)).1 ⟨_, rfl, by decide⟩).2.1 _ _ rfl calm (.other _ _ (.sample _ rfl) (by rintro _ ⟨⟩) (by rintro ⟨⟩)))

theorem witness_overtravel_zone_wait (h : Obligations.SamplesOfAScan) :
    Answers (.deflectionReply .A ⟨5, ⟨0, 100001, 0⟩⟩) (settling 0 (.zoneWait (seg (.leg 2) Vec3.zero).req [0] none) .zoneWait) :=
  ok (((((h.1 (settling 0 (.zoneWait (seg (.leg 2) Vec3.zero).req [0] none) .zoneWait) .A sh bt).2 aScan rfl).2 aSample (some ⟨0, 100001, 0⟩) rfl
    (by rintro ⟨⟩)).1 ⟨_, rfl, by decide⟩).2.1 _ _ rfl calm (.other _ _ (.zones _ _ _ rfl) (by rintro _ ⟨⟩) (by rintro ⟨⟩)))

theorem witness_overtravel_estop (h : Obligations.SamplesOfAScan) :
    Answers (.deflectionReply .A ⟨5, ⟨0, 100001, 0⟩⟩) (settling 0 .nothing .estop) :=
  ok (((((h.1 (settling 0 .nothing .estop) .A sh bt).2 aScan rfl).2 aSample (some ⟨0, 100001, 0⟩) rfl (by rintro ⟨⟩)).1 ⟨_, rfl, by decide⟩).2.2.1
    rfl rfl (.inr rfl))

theorem witness_overtravel_ending (h : Obligations.SamplesOfAScan) :
    Answers (.deflectionReply .A ⟨5, ⟨0, 100001, 0⟩⟩) (settling 0 (.ending .stopped .none) .running) :=
  ok ((((((h.1 (settling 0 (.ending .stopped .none) .running) .A sh bt).2 aScan rfl).2 aSample (some ⟨0, 100001, 0⟩) rfl (by rintro ⟨⟩)).1
    ⟨_, rfl, by decide⟩).2.2.2 _ _ rfl).1 (by decide) |>.2 planA page7 one (by decide) alone)

theorem witness_overtravel_withdrawn (h : Obligations.SamplesOfAScan) :
    Answers (.deflectionReply .A ⟨5, ⟨0, 100001, 0⟩⟩) (settling 0 (.ending .withdrawn .none) .running) :=
  ok ((((((h.1 (settling 0 (.ending .withdrawn .none) .running) .A sh bt).2 aScan rfl).2 aSample (some ⟨0, 100001, 0⟩) rfl (by rintro ⟨⟩)).1
    ⟨_, rfl, by decide⟩).2.2.2 _ _ rfl).2 rfl |>.2 planA page7 one (by decide) alone)

/-- R43: the fault of a sample that completes beside a decided WITHDRAWN stays out of the outcome. -/
theorem test_withdrawn_without_fault : (faultAtEnd .A .withdrawn .none .deflectionLimit (settling 0 (.ending .withdrawn .none) .running)).doing .A =
    .ending .withdrawn .none := by decide +kernel

theorem witness_points_full (h : Obligations.SamplesOfAScan) :
    Answers (.deflectionReply .A ⟨5, ⟨0, 100000, 0⟩⟩) (sampling 100 (some aSample)) :=
  ok (((((h.1 (sampling 100 (some aSample)) .A sh bt).2 aScan rfl).2 aSample (some ⟨0, 100000, 0⟩) rfl (by rintro ⟨⟩)).2.1
    (by rintro ⟨_, ⟨⟩, k⟩; exact absurd k (by decide)) (by decide)).1 (by rintro _ ⟨⟩) (by rintro _ _ ⟨⟩))

theorem witness_points_full_last (h : Obligations.SamplesOfAScan) :
    Answers (.deflectionTimeout .A) (settling 100 (.awaitSample (seg (.leg 1) Vec3.zero).req) .running) :=
  ok (((((h.1 (settling 100 (.awaitSample (seg (.leg 1) Vec3.zero).req) .running) .A sh bt).2 aScan rfl).2 aSample none rfl (fun _ => by decide +kernel)).2.1
    (by rintro ⟨_, ⟨⟩, _⟩) (by decide)).2.1 _ .home 8 rfl (by decide +kernel) goes)

theorem witness_points_full_ending (h : Obligations.SamplesOfAScan) :
    Answers (.deflectionTimeout .A) (settling 100 (.ending .aborted .none) .running) :=
  ok (((((h.1 (settling 100 (.ending .aborted .none) .running) .A sh bt).2 aScan rfl).2 aSample none rfl (fun _ => by decide +kernel)).2.1
    (by rintro ⟨_, ⟨⟩, _⟩) (by decide)).2.2 _ _ rfl |>.2 planA page7 one (by decide) alone)

theorem witness_sample_recorded (h : Obligations.SamplesOfAScan) :
    Answers (.deflectionReply .A ⟨5, ⟨0, 50001, 0⟩⟩) (sampling 99 (some aSample)) :=
  ok (((((h.1 (sampling 99 (some aSample)) .A sh bt).2 aScan rfl).2 aSample (some ⟨0, 50001, 0⟩) rfl (by rintro ⟨⟩)).2.2 planA page7
    (by rintro ⟨_, ⟨⟩, k⟩; exact absurd k (by decide)) (by decide) rfl one).1 (by rintro _ ⟨⟩) (by rintro _ _ ⟨⟩))

theorem witness_sample_without_reply (h : Obligations.SamplesOfAScan) : Answers (.deflectionTimeout .A) (sampling 0 (some aSample)) :=
  ok (((((h.1 (sampling 0 (some aSample)) .A sh bt).2 aScan rfl).2 aSample none rfl (fun _ => by decide +kernel)).2.2 planA page7
    (by rintro ⟨_, ⟨⟩, _⟩) (by decide) rfl one).1 (by rintro _ ⟨⟩) (by rintro _ _ ⟨⟩))

theorem witness_sample_recorded_last (h : Obligations.SamplesOfAScan) :
    Answers (.deflectionTimeout .A) (settling 0 (.awaitSample (seg (.leg 1) Vec3.zero).req) .running) :=
  ok (((((h.1 (settling 0 (.awaitSample (seg (.leg 1) Vec3.zero).req) .running) .A sh bt).2 aScan rfl).2 aSample none rfl (fun _ => by decide +kernel)).2.2
    planA page7 (by rintro ⟨_, ⟨⟩, _⟩) (by decide) rfl one).2.1 _ .home 8 rfl (by decide +kernel) goes)

theorem witness_sample_recorded_ending (h : Obligations.SamplesOfAScan) :
    Answers (.deflectionTimeout .A) (settling 0 (.ending .stopped .none) .running) :=
  ok (((((h.1 (settling 0 (.ending .stopped .none) .running) .A sh bt).2 aScan rfl).2 aSample none rfl (fun _ => by decide +kernel)).2.2
    planA page7 (by rintro ⟨_, ⟨⟩, _⟩) (by decide) rfl one).2.2 _ _ rfl |>.2 planA { page7 with count := 2 } one (by decide) alone)

theorem witness_cycle_due (h : Obligations.ThermalReads) : Answers (.thermalCycleDue .high) (twoChans (some 5) none) :=
  ok ((((h _ sh).1 _ .high rfl (by decide +kernel)).2 0 rfl ⟨by decide +kernel, by decide +kernel, fun n _ _ => by omega⟩).1)

theorem witness_cycle_due_low (h : Obligations.ThermalReads) : Answers (.thermalCycleDue (.low 7)) (twoChans (some 5) none) :=
  ok ((((h _ sh).1 _ .high rfl (by decide +kernel)).2 0 rfl ⟨by decide +kernel, by decide +kernel, fun n _ _ => by omega⟩).2 7)

theorem witness_thermal_reply (h : Obligations.ThermalReads) :
    Answers (.thermalReply ⟨21, base.now - 5000, 3411⟩ 0 0xA0 .high) (twoChans (some (base.now - 1000000)) (some { chan := 0, phase := .reply (ago 5000 5000), abandoned := false })) :=
  ok ((((h (twoChans (some (base.now - 1000000)) (some { chan := 0, phase := .reply (ago 5000 5000), abandoned := false })) sh).2.1 0 1 _ rfl (by decide +kernel) ⟨by decide +kernel, by decide +kernel, fun n _ _ => by omega⟩).1 3411 0xA0 (by decide +kernel) (by decide +kernel) (by decide +kernel) (by decide +kernel)).2 _ rfl (by decide +kernel))

theorem witness_thermal_first_reply (h : Obligations.ThermalReads) :
    Answers (.thermalReply ⟨21, base.now - 5000, 3411⟩ 0 0xA0 .high) (twoChans none (some { chan := 0, phase := .reply (ago 5000 5000), abandoned := false })) :=
  ok ((((h (twoChans none (some { chan := 0, phase := .reply (ago 5000 5000), abandoned := false })) sh).2.1 0 1 _ rfl (by decide +kernel) ⟨by decide +kernel, by decide +kernel, fun n _ _ => by omega⟩).1 3411 0xA0 (by decide +kernel) (by decide +kernel) (by decide +kernel) (by decide +kernel)).1 rfl)

theorem witness_release_end (h : Obligations.ThermalReads) :
    Answers (.releaseSequenceEnd .high) (twoChans (some (base.now - 1000000)) (some { chan := 0, phase := .releasing, abandoned := false })) :=
  ok ((h _ sh).2.2.2.1 0 false rfl)

theorem witness_reply_of_earlier_read (h : Obligations.ThermalReads) :
    Answers (.thermalReply ⟨21, 7, 3411⟩ 0 0xA0 .high) (twoChans none (some { chan := 0, phase := .reply (ago 5 5000), abandoned := false })) :=
  ok ((h _ sh).2.2.2.2.2.2.1 0 false _ _ 0 0xA0 .high rfl (.inr (.inl (by decide +kernel))))

theorem witness_cycle_end (h : Obligations.ThermalReads) :
    Answers (.thermalReply ⟨22, base.now - 5, 3411⟩ 0 0xA0 .high) (twoChans none (some { chan := 1, phase := .reply (ago 5 5000), abandoned := false })) :=
  ok ((((h _ sh).2.2.2.2.2.2.2 1 false (ago 5 5000) .high _ _ _ (.inl ⟨rfl, _, _, _, rfl, rfl, rfl, rfl, rfl, by decide +kernel⟩)).2.1 rfl restOff).1 rfl)

theorem witness_cycle_end_pending (h : Obligations.ThermalReads) :
    Answers (.thermalReadTimeout .high) ((twoChans none (some { chan := 1, phase := .reply (ago 5000 5000), abandoned := false })).modThermal (fun t => { t with pendingCycle := true })) :=
  ok ((((h _ sh).2.2.2.2.2.2.2 1 false (ago 5000 5000) .high _ _ _ (.inr (.inl ⟨rfl, rfl, rfl, rfl, by decide +kernel⟩))).2.1 rfl restOff).2 0 rfl ⟨by decide +kernel, fun n k => by omega⟩ rfl)

theorem witness_cycle_abandoned (h : Obligations.ThermalReads) :
    Answers (.thermalReadTimeout .high) (twoChans none (some { chan := 0, phase := .reply (ago 5000 5000), abandoned := true })) :=
  ok ((((h _ sh).2.2.2.2.2.2.2 0 true (ago 5000 5000) .high _ _ _ (.inr (.inl ⟨rfl, rfl, rfl, rfl, by decide +kernel⟩))).1 rfl).1 rfl)

theorem witness_cycle_end_stuck (h : Obligations.ThermalReads) :
    Answers (.releaseSequenceEnd (.low 9)) (twoChans none (some { chan := 1, phase := .releasing, abandoned := false })) :=
  ok ((((h _ sh).2.2.2.2.2.2.2 1 false (ago 5000 5000) (.low 9) _ _ _ (.inr (.inr ⟨rfl, rfl, rfl, ⟨9, rfl⟩, rfl⟩))).2.1 rfl restOff).1 rfl)

theorem witness_stuck_goes_on (h : Obligations.ThermalReads) :
    Answers (.releaseSequenceEnd (.low 9)) (twoChans none (some { chan := 0, phase := .releasing, abandoned := false })) :=
  ok (((h _ sh).2.2.2.2.2.2.2 0 false (ago 5000 5000) (.low 9) _ _ _ (.inr (.inr ⟨rfl, rfl, rfl, ⟨9, rfl⟩, rfl⟩))).2.2 1 9 rfl (by decide) (by decide +kernel) (by intro n a b; omega) rfl)

theorem witness_cycle_overrun (h : Obligations.ThermalReads) :
    Answers (.thermalCycleDue .high) (twoChans (some (base.now - 1000000)) (some { chan := 0, phase := .waitWire, abandoned := false })) :=
  ok (((h _ sh).1 _ .high rfl (by decide +kernel)).1 rfl)

theorem witness_thermal_timeout (h : Obligations.ThermalReads) :
    Answers (.thermalReadTimeout .high) (twoChans (some (base.now - 1000000)) (some { chan := 0, phase := .reply (ago 5000 5000), abandoned := false })) :=
  ok (((h _ sh).2.1 0 1 _ rfl (by decide +kernel) ⟨(by decide +kernel), (by decide +kernel), fun n _ _ => by omega⟩).2 (by decide +kernel) rfl (by decide +kernel))

theorem witness_wire_high (h : Obligations.ThermalReads) :
    Answers (.dataWireHigh) ((twoChans (some (base.now - 1000000)) (some { chan := 0, phase := .waitWire, abandoned := false })).modThermal (fun h => { h with wire := .low (base.now - 25000) })) :=
  ok ((((h _ sh).2.2.1 0 false _ rfl rfl).1 (by decide +kernel)).1)

theorem witness_line_low_briefly (h : Obligations.ThermalReads) :
    Answers (.lineStuck) ((twoChans (some (base.now - 1000000)) (some { chan := 0, phase := .waitWire, abandoned := false })).modThermal (fun h => { h with wire := .low (base.now - 25000) })) :=
  ok ((((h _ sh).2.2.1 0 false _ rfl rfl).1 (by decide +kernel)).2)

theorem witness_line_stuck (h : Obligations.ThermalReads) :
    Answers (.lineStuck) ((twoChans (some (base.now - 1000000)) (some { chan := 0, phase := .waitWire, abandoned := false })).modThermal (fun h => { h with wire := .low (base.now - 25001) })) :=
  ok (((h _ sh).2.2.1 0 false _ rfl rfl).2 (by decide +kernel))

theorem witness_front (h : Obligations.StepTakesTheFrontCommand) :
    Sys2Proof.Machine.step { base with pending := [.nudge, .stop] } = Sys2Proof.Machine.exec .nudge { base with pending := [.stop] } :=
  h.1 .nudge [.stop] _ rfl

theorem witness_idle (h : Obligations.StepTakesTheFrontCommand) : Sys2Proof.Machine.step base = .next { base with now := 60000001 } :=
  h.2 base rfl

/-- The state for the invariants: NUDGE waits; everything they ask for holds. -/
def queued : State := { base with pending := [.nudge] }

theorem queued_sections : queued.SectionsSound := by
  intro x hx; rcases List.eq_of_mem_replicate hx with rfl; exact ⟨by decide, by decide⟩

theorem queued_regions : queued.maps.RegionsApart :=
  ⟨by rintro ⟨⟩ ⟨⟩ ⟨⟩ _ ⟨⟩, by rintro ⟨⟩ ⟨⟩ ⟨⟩ _ _ _ _ _ ⟨⟩⟩

theorem queued_pages : queued.PagesApart :=
  ⟨by decide, by rintro ⟨⟩ <;> decide, by rintro ⟨⟩ <;> decide, by decide⟩

theorem step_queued : ∃ t, Sys2Proof.Machine.step queued = .next t := ⟨_, rfl⟩

theorem witness_shape (h : Obligations.StepKeepsShape) : ∃ t, Sys2Proof.Machine.step queued = .next t ∧ t.Shaped :=
  step_queued.imp fun t k => ⟨k, h.1 queued t sh k⟩

theorem witness_memory (h : Obligations.StepKeepsCanonicalMemory) : ∃ t, Sys2Proof.Machine.step queued = .next t ∧ memWf t.mem = true :=
  step_queued.imp fun t k => ⟨k, h queued t sh (by decide +kernel) k⟩

theorem witness_sections (h : Obligations.StepKeepsSectionsSound) : ∃ t, Sys2Proof.Machine.step queued = .next t ∧ t.SectionsSound :=
  step_queued.imp fun t k => ⟨k, h queued t sh queued_sections k⟩

theorem witness_between (h : Obligations.StepKeepsBetweenCommands) : ∃ t, Sys2Proof.Machine.step queued = .next t ∧ t.BetweenCommands :=
  step_queued.imp fun t k => ⟨k, h.1 queued t sh bt k⟩

theorem witness_regions (h : Obligations.StepKeepsMapRegionsApart) :
    ∃ t, Sys2Proof.Machine.step queued = .next t ∧ t.maps.RegionsApart :=
  step_queued.imp fun t k => ⟨k, h queued t sh queued_regions k⟩

theorem witness_pages (h : Obligations.StepKeepsPagesApart) : ∃ t, Sys2Proof.Machine.step queued = .next t ∧ t.PagesApart :=
  step_queued.imp fun t k => ⟨k, h.1 queued t sh queued_pages k⟩

/-- With arm A's call stack as deep as its region. -/
def deep : State := queued.modExec .A (fun e => { e with stack := List.replicate 16 { slot := 0, index := 0, offset := 0, savedOffset := Vec3.zero, rep := none } })

theorem witness_stacks (h : Obligations.StepKeepsShape) : ∃ t, Sys2Proof.Machine.step deep = .next t ∧ t.StacksFit :=
  ⟨_, rfl, h.2 deep _ (by rintro ⟨⟩ <;> decide +kernel) rfl⟩

/-- Arm A waits for zone 0 of arm B. -/
def waiting : State :=
  { zoneWaiter with
    zones := { zone0 with holder := some .B, waiter := some .A, waitStart := some 5 } :: List.replicate 7 Zone.blank, pending := [.nudge] }

theorem waiting_sound : waiting.ZoneWaitsSound := by
  have at0 (a : Arm) (n : Nat) (z : Zone) (e : waiting.zones[n]? = some z) (w : z.waiter = some a) :
      n = 0 ∧ a = .A ∧ z.holder = some .B := by
    cases n with
    | zero => cases e; cases w; exact ⟨rfl, rfl, rfl⟩
    | succ n => rw [List.eq_of_mem_replicate (List.mem_of_getElem? (show (List.replicate 7 Zone.blank)[n]? = some z from e))] at w; cases w
  refine ⟨fun a n z e w => ?_, fun a r need d e => ?_, fun a r need d r' need' d' e => ?_⟩
  · obtain ⟨rfl, rfl, k⟩ := at0 a n z e w
    exact ⟨k, _, _, _, rfl, .head _⟩
  · cases a
    · exact ⟨0, _, rfl, rfl, fun k y f w => (at0 .A k y f w).1⟩
    · cases e
  · cases a
    · rintro ⟨⟩
    · cases e

theorem witness_zone_waits (h : Obligations.StepKeepsBetweenCommands) :
    ∃ t, Sys2Proof.Machine.step waiting = .next t ∧ t.ZoneWaitsSound :=
  ⟨_, rfl, h.2 waiting _ sh bt waiting_sound rfl⟩

/-- Arm A awaits the supply check of its change, probe 5 on its head. -/
def picked : State := { mounted (changing .p5 (ago 5 20000)) probe5 with pending := [.nudge] }

theorem picked_agrees : picked.ProbesAgree := by
  have at_ (p : Nat) : (picked.probe p).location = if p = 5 then .arm .A else .unknown := by
    by_cases k : p < 32
    · exact (show ∀ p : Fin 32, (picked.probe p).location = if p.1 = 5 then .arm .A else .unknown by decide +kernel) ⟨p, k⟩
    · rw [if_neg (by omega), State.probe, List.getD_eq_default _ _ (Nat.le_of_not_lt k)]; rfl
  have ports (n : Nat) (k : n < 16) : (picked.rack.port n).probe = none :=
    (show ∀ n : Fin 16, (picked.rack.port n).probe = none by decide +kernel) ⟨n, k⟩
  refine ⟨fun p n k => ?_, fun p a => ?_, fun a => ?_, fun a c e => ?_, fun a st e => ?_, fun a i d e => ?_⟩
  · rw [ports n k, at_ p]; split <;> simp
  · rw [at_ p]; cases a
    · show Occupancy.probe 5 = .probe p ↔ _
      split <;> simp_all [eq_comm]
    · show Occupancy.unidentified = .probe p ↔ _
      split <;> simp
  · cases a <;> decide +kernel
  · cases a
    · cases e; exact ⟨rfl, rfl, by decide +kernel, rfl, .inr (by rintro _ ⟨⟩)⟩
    · cases e
  · cases a <;> cases e
  · cases a <;> cases e

theorem witness_probes_agree (h : Obligations.StepKeepsPagesApart) : ∃ t, Sys2Proof.Machine.step picked = .next t ∧ t.ProbesAgree :=
  ⟨_, rfl, h.2 picked _ sh bt picked_agrees rfl⟩

theorem witness_bytes (h : Obligations.PartWritesOnlyItsBytes) : ∃ t, Sys2Proof.Machine.exec .nudge base = .next t ∧
    readByte t.mem 0x8000 = readByte base.mem 0x8000 ∧ readByte t.mem 0x10004 = readByte base.mem 0x10004 :=
  ⟨_, rfl, h .nudge base _ sh rfl _ (by decide), h .nudge base _ sh rfl _ (by decide)⟩

/-- An emergency stop of an idle arm changes what its section shows. -/
theorem witness_shown (h : Obligations.EveryChangeIsShown) : ∃ t, Sys2Proof.Machine.exec .estopAssert base = .next t ∧
    t.sectionState .armA = { counter := 3, busy := true, marked := false } := by
  refine ⟨_, rfl, ?_⟩
  have := h .estopAssert base _ .armA sh rfl rfl (by rintro _ _ ⟨⟩) (by rintro _ ⟨⟩) (.inl (by decide +kernel))
  rw [if_neg (by decide +kernel)] at this
  exact this.1

/-- An arm FAULTED by TRAVEL_LIMIT is FAULTED again within the RESUME, and its section is rewritten. -/
theorem witness_shown_resume (h : Obligations.EveryChangeIsShown) :
    ∃ t, Sys2Proof.Machine.exec (.resume .armA) (faulted .travelLimit (.segment (seg .move ⟨3000000000, 0, 0⟩).req)) = .next t ∧
      (t.arm .A).mot.state = .faulted ∧ t.sectionState .armA = { counter := 3, busy := true, marked := false } := by
  refine ⟨_, rfl, by decide +kernel, ?_⟩
  have := h (.resume .armA) (faulted .travelLimit (.segment (seg .move ⟨3000000000, 0, 0⟩).req)) _ .armA sh rfl rfl (by rintro _ _ ⟨⟩)
    (by rintro _ ⟨⟩) (.inr ⟨.A, _, rfl, rfl, ⟨.inr ⟨rfl, by decide⟩, by rintro _ _ ⟨⟩, rfl⟩, rfl, rfl⟩)
  rw [if_neg (by decide +kernel)] at this
  exact this.1

theorem witness_causes (h : Obligations.CausesStaySet) :
    ∃ t, Sys2Proof.Machine.exec .nudge { base with cause := 1 } = .next t ∧ t.cause.getLsbD 0 = true :=
  ⟨_, rfl, h .nudge { base with cause := 1 } _ 0 sh rfl (by rintro _ ⟨⟩) (by rintro _ _ ⟨⟩) (by rintro ⟨⟩) rfl⟩

theorem witness_owned (h : Obligations.OnlyTheirCommandsChangeThem) :
    ∃ t, Sys2Proof.Machine.exec .nudge base = .next t ∧ t.inst = base.inst ∧ t.mask = base.mask := by
  have := h .nudge base _ sh rfl (by rintro _ _ ⟨⟩) (by rintro ⟨⟩)
  exact ⟨_, rfl, this.1 (by rintro _ ⟨⟩), this.2.2.1 (by rintro _ ⟨⟩)⟩

theorem witness_power_on (h : Obligations.PowerOnAnswers) :
    ∃ t, Sys2Proof.Machine.exec (.powerOn true (PerArm.both (Axes.all3 false))) base = .next t :=
  (h true (PerArm.both (Axes.all3 false)) base).imp fun _ k => k.1

/-! ### Statements about one calculation -/

theorem witness_feed (h : Obligations.FeedAndProfile) : 1000 ≤ effectiveFeed base .A (seg .move ⟨0, 0, 5⟩).req :=
  (h.2.2.2.2.2.1 base .A (seg .move ⟨0, 0, 5⟩).req 1000).2 (by decide +kernel)

theorem witness_profile (h : Obligations.FeedAndProfile) :
    0 < (profileOf (consts.axes.get .A) Vec3.zero ⟨0, 0, 5⟩ 1000).accDen :=
  (h.2.2.2.2.2.2 (consts.axes.get .A) Vec3.zero ⟨0, 0, 5⟩ 1000 (by decide)).1

/-- Two valid readings and one failed channel of part A: LIVE. -/
def threeChans : State :=
  let c (v : Int) : Chan := { Chan.blank with enabled := true, role := .part .A, state := .fresh, value := v, lastGood := some 5 }
  { base with thermal := { Thermal.powerOn with
      chans := [c 3398, c 3412, { c 0 with state := .failed }] ++ List.replicate 29 Chan.blank } }

theorem witness_group_live (h : Obligations.GroupsAtACycleEnd) :
    ((cycleEnd threeChans).thermal.groups.of (.part .A)).state = .live :=
  ((h.1 threeChans (.part .A) (by decide)).2.2.1 (by decide +kernel)).1

/-- With its one channel failed, a LIVE group is HELD. -/
def oneFailed (g : Group) : State :=
  { base with thermal := { Thermal.powerOn with
      groups := { Groups.blank with air := g }
      chans := { Chan.blank with enabled := true, role := .air, state := .failed } :: List.replicate 31 Chan.blank } }

theorem witness_group_held (h : Obligations.GroupsAtACycleEnd) :
    ((cycleEnd (oneFailed { Group.blank with state := .live })).thermal.groups.of .air).holdStart = some 60000000 := by
  rw [(h.1 (oneFailed { Group.blank with state := .live }) .air (by decide)).2.2.2.1 (by decide +kernel) (by decide +kernel) rfl]; rfl

theorem witness_group_expired (h : Obligations.GroupsAtACycleEnd) :
    ((cycleEnd { oneFailed { Group.blank with state := .held, holdStart := some 59999999 } with
      inst := { consts with holdLimit := 0 } }).thermal.groups.of .air).state = .expired := by
  rw [((h.1 { oneFailed { Group.blank with state := .held, holdStart := some 59999999 } with inst := { consts with holdLimit := 0 } } .air
    (by decide)).2.2.2.2 59999999 (by decide +kernel) (by decide +kernel) rfl).1 (by decide +kernel) (.inl rfl)]

theorem witness_group_none (h : Obligations.GroupsAtACycleEnd) : ((cycleEnd base).thermal.groups.of .air).state = .none := by
  rw [(h.1 base .air (by decide)).2.1 (by decide +kernel)]

/-- One AIR channel at 3,500 mK, a probe qualified at `tq`. -/
def aired (tq : Int) : State :=
  { withProbe base { probe5 with tq := tq } with
    thermal := { Thermal.powerOn with
      chans := { Chan.blank with enabled := true, role := .air, state := .fresh, value := 3500, lastGood := some 5 } :: List.replicate 31 Chan.blank } }

theorem witness_expires (h : Obligations.GroupsAtACycleEnd) :
    (cycleEnd (aired 3400)).probes[5]? = some { probe5 with tq := 3400, qualification := .expired } ∧
    (cycleEnd (aired 3400)).cause = causeWord .probeExpired := by
  have k := (h.2 (aired 3400)).2.1 (by decide +kernel)
  exact ⟨(k.1 5 { probe5 with tq := 3400 } rfl).1 ⟨rfl, rfl, by decide +kernel⟩,
    k.2.1 ⟨{ probe5 with tq := 3400 }, by decide +kernel, rfl, rfl, by decide +kernel⟩⟩

theorem witness_expires_not (h : Obligations.GroupsAtACycleEnd) :
    (cycleEnd (aired 3500)).probes[5]? = some { probe5 with tq := 3500 } :=
  (((h.2 (aired 3500)).2.1 (by decide +kernel)).1 5 { probe5 with tq := 3500 } rfl).2 fun k => absurd k.2.2 (by decide +kernel)

theorem witness_expires_none (h : Obligations.GroupsAtACycleEnd) : (cycleEnd base).probes = base.probes :=
  ((h.2 base).2.2 (by decide +kernel)).1

/-- Section 9.7's map. -/
def map97 : MapDesc := { s0 := 100000000, m := 12, count := 3, base := 0 }

theorem witness_maps (h : Obligations.MapsAreEvaluated) : evalDesc [40, -20, 10] (some map97) 99999999 = (40, true) ∧
    evalDesc [40, -20, 10] (some map97) 100008193 = (10, true) ∧ evalDesc [40, -20, 10] (some map97) 100008192 = (10, false) ∧
    ∃ v : Int, evalDesc [40, -20, 10] (some map97) 100008191 = (-20 + v, false) :=
  have k := h.2.1 [40, -20, 10] map97
  ⟨(k 99999999 (by decide)).1 (by decide), (k 100008193 (by decide)).2.1 (by decide), (k 100008192 (by decide)).2.2.1 (by decide),
    ((k 100008191 (by decide)).2.2.2 1 4095 (by decide) (by decide) (by decide) (by decide)).imp fun _ e => e.1⟩

theorem witness_place (h : Obligations.ProbeTableItems) :
    placeOrient 7 ⟨0, 24, ⟨1, 2, 3⟩⟩ probe5.orients = [⟨0, 24, ⟨1, 2, 3⟩⟩] ∧
    placeOrient 0 ⟨5, 5, ⟨1, 2, 3⟩⟩ probe5.orients = [⟨5, 5, ⟨1, 2, 3⟩⟩] :=
  have k := h.2 probe5.orients
  ⟨(k 7 ⟨0, 24, ⟨1, 2, 3⟩⟩ (by decide) (by decide) (by decide)).2.2.1 0 _ rfl rfl rfl,
    (k 0 ⟨5, 5, ⟨1, 2, 3⟩⟩ (by decide) (by decide) (by decide)).2.2.2 (by decide)⟩

/-! ### Statements with several values -/

theorem witness_soft_reset (h : Obligations.SoftResetBegins) : Answers .softReset (flyingSeg .move) := ok ((h (flyingSeg .move) sh).1 rfl)

theorem witness_load_map (h : Obligations.CoordinateUnitItems) : Answers (.loadMap .A) (handed (.loadMap aMap)) := by
  obtain ⟨_, _, _, _, _, k⟩ := (((h (handed (.loadMap aMap)) .A sh bt).1 _ rfl).2.2 .X .Y rfl rfl rfl (by decide +kernel)).2
    (by rintro ⟨⟩ ⟨⟩ ⟨⟩ _ ⟨⟩)
  exact ok (k .home 8 goes)

theorem witness_clear_map (h : Obligations.CoordinateUnitItems) : Answers (.clearMap .A) (handed (.clearMap 1 1 3)) := by
  obtain ⟨_, _, _, _, k⟩ := (h (handed (.clearMap 1 1 3)) .A sh bt).2.2.1 1 3 .X .Z .home 8 rfl rfl rfl goes
  exact ok k

theorem witness_status_reply (h : Obligations.RackReportsAreRecorded) :
    Answers (.rackStatusReply [⟨0, true, .closed⟩, ⟨15, false, .opened⟩]) base := by
  obtain ⟨_, _, _, _, _, k⟩ := (h base sh bt).2.2.1 [⟨0, true, .closed⟩, ⟨15, false, .opened⟩] (by decide)
  exact ok k

/-- The status request went out this many µs ago; ports 0 and 15 have not answered. -/
def asked (n : Nat) : State := { base with rack := { base.rack with statusTimer := some (ago n 100000), statusDue := [0, 15] } }

theorem witness_status_timeout (h : Obligations.RackReportsAreRecorded) : Answers .rackStatusTimeout (asked 100000) := by
  obtain ⟨_, _, _, k⟩ := (h (asked 100000) sh bt).2.2.2.1 _ rfl (by decide +kernel)
  exact ok k

theorem witness_occupancy_report (h : Obligations.RackReportsAreRecorded) :
    ∃ t, Sys2Proof.Machine.exec (.occupancyReport 15 true) (asked 100000) = .next t ∧ t.apart.rack.statusDue = [0, 15] :=
  ((h (asked 100000) sh bt).2.1 15 true (by rintro _ _ _ ⟨⟩)).imp fun _ k =>
    ⟨k.1, congrArg (fun s : State => s.rack.statusDue) (k.2.1 (by rintro ⟨d, e, n⟩; cases e; exact absurd n (by decide +kernel))).state⟩

theorem witness_occupancy_report_late (h : Obligations.RackReportsAreRecorded) :
    ∃ t, Sys2Proof.Machine.exec (.occupancyReport 15 true) (asked 100001) = .next t ∧ t.apart.rack.statusDue = [0] :=
  ((h (asked 100001) sh bt).2.1 15 true (by rintro _ _ _ ⟨⟩)).imp fun _ k =>
    ⟨k.1, congrArg (fun s : State => s.rack.statusDue) (k.2.2 ⟨_, rfl, by decide +kernel⟩).state⟩

theorem witness_backoff (h : Obligations.StoppedArmComesToRest) :
    Answers (.armAtRest .A noCounts) (hitting .pass1 { aTouch with measureFeed := 2000 } { Stop.plain with hold := true }) := by
  obtain ⟨_, _, _, k, _⟩ := ((h (hitting .pass1 { aTouch with measureFeed := 2000 } { Stop.plain with hold := true }) .A noCounts _ _ sh bt rfl
    rfl).2 _ _ rfl rfl rfl rfl).1 rfl (by decide) rfl
  exact ok (k.1 rfl rfl (by decide))

theorem witness_abort_empty_page (h : Obligations.AbortReachesAnArm) : Answers (.abort .armA) (chained (held .boundary) 0) := by
  obtain ⟨_, _, _, k⟩ := (((h (chained (held .boundary) 0) .A sh bt rfl rfl).2.2.2.2.1 planA rfl rfl rfl (.inl rfl)).2.2.2 { page7 with count := 0 } rfl
    (by decide +kernel) alone).2 rfl rfl rfl (by decide)
  exact ok k

theorem witness_refresh (h : Obligations.MoveIsKeptBack) :
    refresh .A (mounted (handed (.move ⟨5, 0, 0⟩ 6)) probe5) = (mounted (handed (.move ⟨5, 0, 0⟩ 6)) probe5).modHead .A (fun k =>
      { k with ctx := { k.ctx with index := 5, copy := { probe5 with location := .arm .A } } }) :=
  ((h (mounted (handed (.move ⟨5, 0, 0⟩ 6)) probe5) .A ⟨5, 0, 0⟩ 6 sh bt rfl calm).1 5 (by decide +kernel) (by decide +kernel) rfl).2.2 rfl rfl

theorem witness_refresh_none (h : Obligations.MoveIsKeptBack) :
    refresh .A (handed (.move ⟨5, 0, 0⟩ 6)) = (handed (.move ⟨5, 0, 0⟩ 6)).modHead .A (fun k => { k with ctx := Context.null }) :=
  (h (handed (.move ⟨5, 0, 0⟩ 6)) .A ⟨5, 0, 0⟩ 6 sh bt rfl calm).2.1 (by rintro _ ⟨⟩)

theorem witness_registers (h : Obligations.RegisterWrites) :
    readRegister base 0x1C = 0 ∧ readRegister base 0x18 / 0x1000000 = 0 ∧ hostLoad base 0x3FFFFC 4 = .next [0, 0, 0, 0] ∧
    (∃ m, hostStore base 0x10000 [1, 0, 0x4C, 0x50] = .next { base with mem := m }) ∧
    registerWrite 0x08 0 = [.armCmdUndefined] ∧ registerWrite 0x08 0x11 = [.hold .armA] ∧ registerWrite 0x08 0x22 = [.resume .armB] ∧
    registerWrite 0x08 0x33 = [.abort .both] ∧ registerWrite 0x0C 5 = [.registerWriteIgnored 0x0C 5] ∧
    registerWrite 0x1C 5 = [] := by
  obtain ⟨_, _, _, _, _, _, _, _, _, _, a, _, _, _, _, b, c, d⟩ := h.1 base sh
  have k := h.2.2.2
  exact ⟨a _ (by decide), b, d 0x3FFFFC 4 (by decide), (c 0x10000 [1, 0, 0x4C, 0x50] (by decide)).imp fun _ e => e.1,
    (k 0).1 (by decide), ((k 0x11).2 .armA (by decide)).1 (by decide), ((k 0x22).2 .armB (by decide)).2.1 (by decide),
    ((k 0x33).2 .both (by decide)).2.2 (by decide), (h.2.2.1 5).2.2.1 0x0C (by decide),
    (h.2.2.1 5).2.2.2 0x1C (by decide)⟩

theorem witness_start_result (h : Obligations.RegisterWrites) :
    readRegister { base with startResult := .failed .installZone } 0x0C / 256 = 3 ∧ readRegister { base with startResult := .ok } 0x0C / 256 = 15 ∧
    readRegister { base with areaCode := .tagConflict } 0x18 / 0x1000000 = 10 := by
  obtain ⟨_, _, _, _, _, _, _, _, _, _, _, _, _, a, _⟩ := h.1 { base with startResult := .failed .installZone } sh
  obtain ⟨_, _, _, _, _, _, _, _, _, _, _, _, _, b, _⟩ := h.1 { base with startResult := .ok } sh
  obtain ⟨_, _, _, _, _, _, _, _, _, _, _, _, _, _, _, c, _⟩ := h.1 { base with areaCode := .tagConflict } sh
  exact ⟨a, b, c⟩

/-- `install` with four channels, for AIR at addresses 21 to 23 and one disabled. -/
def channels : Mem :=
  install.takeWhile (fun c => c.1 < 0x8801) ++
  [0x8810, 0x8820, 0x8830].flatMap (fun b => [(b, BitVec.ofNat 8 (21 + (b - 0x8810) / 16)), (b + 1, 9), (b + 2, 1), (b + 6, 1), (b + 8, 1)]) ++
  [(0x8840, 24)] ++ install.dropWhile (fun c => c.1 < 0x8801)

/-- A validation's end that finds channel 0 as it was, FRESH; channel 1 DISABLED with a good value; channel 2 for another role; and all
four with misses. -/
def restarted : State :=
  let c (n : Nat) (r : Role) (st : ChanState) : Chan := { Chan.blank with address := n, role := r, state := st, value := 3400, misses := 2, lastGood := some 5 }
  { base with
    device := .starting, mem := channels
    thermal := { Thermal.powerOn with
      chans := [c 21 .air .fresh, c 22 .air .disabled, c 23 .spare .fresh, c 24 .spare .fresh] ++ List.replicate 28 Chan.blank } }

theorem witness_start_channels (h : Obligations.StartCompletes) : ∃ t, Sys2Proof.Machine.exec (.startValidationComplete .high) restarted = .next t ∧
    (t.chan 0).state = .fresh ∧ (t.chan 0).misses = 2 ∧ (t.chan 1).state = .aged ∧ (t.chan 1).value = 3400 ∧ (t.chan 2).state = .failed ∧
    (t.chan 2).value = 0 ∧ (t.chan 3).state = .disabled ∧ (t.chan 3).misses = 0 := by
  obtain ⟨t, e, _, _, _, _, _, _, _, _, _, _, _, _, _, _, _, _, _, _, _, _, _, k, _⟩ := h.2 .high restarted sh rfl rfl (by decide +kernel)
  have k0 := (k 0 (by decide)).2.1 (by decide +kernel) (by decide +kernel) (by decide +kernel)
  have k1 := (k 1 (by decide)).2.2.1 (by decide +kernel) (by decide +kernel) (by decide +kernel) (by decide +kernel)
  have k2 := (k 2 (by decide)).2.2.2 (by decide +kernel) (.inl (by decide +kernel))
  have k3 := (k 3 (by decide)).1 (by decide +kernel)
  exact ⟨t, e, by rw [k0]; rfl, by rw [k0]; rfl, by rw [k1], by rw [k1]; rfl, by rw [k2], by rw [k2], by rw [k3], by rw [k3]⟩

/-- Arm A's plan with these policies and this context state and qualification, a group EXPIRED or not. -/
def judged (c : ContextState) (q : Qualification) (orient : Bool) (temp : Bool) : State :=
  ((({ base with thermal := { Thermal.powerOn with published := { Thermal.powerOn.published with
    groups := { Groups.blank with scale := { a := ⟨{ Group.blank with state := if temp then .expired else .live }, Group.blank, Group.blank⟩
                                             b := Axes.all3 Group.blank } } } } } : State).modExec .A (fun e =>
    { e with plan := some { planA with expiredProbe := 2, expiredTemp := 2 } })).modHead .A (fun k =>
      { k with orient := if orient then some (0, 24) else none, ctx := { index := 5, copy := { probe5 with qualification := q }, state := c, selected := none } }))

theorem witness_probing_checks (h : Obligations.CaptureItemsAskForRoom) :
    probingStartFault (judged .none .qualified true false) .A false = some .probeNone ∧
    probingStartFault (judged .ready .qualified true false) .A true = some .probeKind ∧
    probingStartFault (judged .ready .qualified false false) .A false = some .orientUnqualified ∧
    probingStartFault (judged .unpowered .qualified true false) .A false = some .probeNotReady ∧
    probingStartFault (judged .ready .expired true false) .A false = some .probeExpired ∧
    probingStartFault (judged .ready .qualified true true) .A false = some .tempExpired ∧
    probingStartFault (judged .ready .qualified true false) .A false = none := by
  have k (c q o t b) := h.2 (judged c q o t) .A { planA with expiredProbe := 2, expiredTemp := 2 } b rfl
  have fit : ¬ ((false = true ∧ ProbeKind.touch = .touch) ∨ (false = false ∧ ProbeKind.touch = .scan)) := by decide
  have on : ∃ o ∈ probe5.orients, some (0, 24) = some (o.tilt, o.swivel) := ⟨_, .head _, rfl⟩
  refine ⟨(k .none .qualified true false false).1 rfl, ((k .ready .qualified true false true).2 (by decide +kernel)).1 (.inl ⟨rfl, rfl⟩),
    (((k .ready .qualified false false false).2 (by decide +kernel)).2 fit).1 (by rintro ⟨_, _, ⟨⟩⟩),
    ((((k .unpowered .qualified true false false).2 (by decide +kernel)).2 fit).2 on).1 rfl,
    (((((k .ready .expired true false false).2 (by decide +kernel)).2 fit).2 on).2 (by decide +kernel)).1 ⟨by decide +kernel, rfl⟩,
    ((((((k .ready .qualified true true false).2 (by decide +kernel)).2 fit).2 on).2 (by decide +kernel)).2 (by decide +kernel)).1 ⟨.inl ⟨.X, rfl⟩, rfl⟩,
    ((((((k .ready .qualified true false false).2 (by decide +kernel)).2 fit).2 on).2 (by decide +kernel)).2 (by decide +kernel)).2 ?_⟩
  rintro ⟨⟨i, e⟩ | ⟨e, _⟩, _⟩
  · cases i <;> cases e
  · cases e

theorem witness_item_ends (h : Obligations.ControlItems) :
    (itemDone { Executor.powerOn with itemLen := 16, stack := [] }).offset = 16 ∧
    (itemDone { Executor.powerOn with itemLen := 16, rep := some ⟨0, 2, Vec3.zero, ⟨1, 2, 3⟩⟩ }).pattern = ⟨1, 2, 3⟩ ∧
    (itemDone { Executor.powerOn with itemLen := 16, rep := some ⟨1, 2, ⟨1, 0, 0⟩, ⟨1, 2, 3⟩⟩ }).pattern = ⟨4, 2, 3⟩ := by
  have k := h.2.2.1
  refine ⟨?_, ?_, ?_⟩
  · rw [(k _).1 rfl]; rfl
  · rw [((k _).2 ⟨0, 2, Vec3.zero, ⟨1, 2, 3⟩⟩ rfl).1 rfl]
  · rw [((k _).2 ⟨1, 2, ⟨1, 0, 0⟩, ⟨1, 2, 3⟩⟩ rfl).2 (by decide)]; rfl

/-- An entry of slot 0 with this repeat state, popped from the taken slot's level. -/
def popped (r : Option RepeatState) : Executor :=
  popEntry 14 8 { slot := 0, index := 1, offset := 16, savedOffset := Vec3.zero, rep := r } [] { Executor.powerOn with plan := some planA }

theorem witness_pop (h : Obligations.ControlItems) : (popped none).offset = 16 ∧
    (popped (some ⟨0, 2, Vec3.zero, ⟨1, 2, 3⟩⟩)).offset = 32 ∧ (popped (some ⟨1, 2, ⟨1, 0, 0⟩, ⟨1, 2, 3⟩⟩)).pattern = ⟨4, 2, 3⟩ := by
  have k (r) := h.2.2.2 14 8 { slot := 0, index := 1, offset := 16, savedOffset := Vec3.zero, rep := r } []
    { Executor.powerOn with plan := some planA } planA rfl
  refine ⟨?_, ?_, ?_⟩
  · exact congrArg Executor.offset ((k none).1 rfl)
  · exact congrArg Executor.offset (((k (some ⟨0, 2, Vec3.zero, ⟨1, 2, 3⟩⟩)).2 _ rfl).1 rfl)
  · exact congrArg Executor.pattern (((k (some ⟨1, 2, ⟨1, 0, 0⟩, ⟨1, 2, 3⟩⟩)).2 _ rfl).2 (by decide))

theorem witness_frame (h : Obligations.FeedAndProfile) :
    fromFrame (consts.frame.get .B) (toFrame (consts.frame.get .B) ⟨1, 2, 3⟩) = ⟨1, 2, 3⟩ :=
  ((h.1 (consts.frame.get .B) ⟨1, 2, 3⟩).2 fun i => .inr (by cases i <;> rfl)).1

theorem witness_needed (h : Obligations.FeedAndProfile) : 0 ∈ neededSet base .A (seg .move ⟨0, 0, 5⟩).req ∧
    1 ∉ neededSet base .A (seg .move ⟨0, 0, 5⟩).req :=
  ⟨(h.2.2.2.1 base .A _ 0).2 ⟨zone0, rfl, by decide +kernel⟩, fun k => by
    obtain ⟨z, e, w⟩ := (h.2.2.2.1 base .A _ 1).1 k
    cases e; exact absurd w (by decide +kernel)⟩

theorem witness_granted (h : Obligations.FeedAndProfile) :
    (grantZones .A [0] base.zones)[0]? = some { zone0 with holder := some .A } ∧ (grantZones .A [0] base.zones)[1]? = some zone1 :=
  have k := (h.2.2.2.2.1 base.zones .A [0]).2.2
  ⟨k 0 zone0 rfl, k 1 zone1 rfl⟩

theorem witness_element (h : Obligations.ThermalReads) : ((takeRead 0 .element (twoChans none none)).chan 0).state = .failed := by
  rw [(h (twoChans none none) sh).2.2.2.2.2.1 0 (.inl rfl)]; rfl

theorem witness_judged (h : Obligations.ThermalReads) : judgeReply 3411 0 0xA0 = .good 3411 ∧ judgeReply 3411 0 0xA1 = .miss ∧
    judgeReply 3411 1 0x9F = .element ∧ judgeReply 3411 3 0x9D = .miss ∧ judgeReply 30001 0 0x9A = .miss := by
  have k := (h base sh).2.2.2.2.1
  exact ⟨(k 3411 0 0xA0).2.1 (by decide) rfl (by decide) (by decide), (k 3411 0 0xA1).2.2 (.inl (by decide)),
    (k 3411 1 0x9F).1 (by decide) (.inl rfl), (k 3411 3 0x9D).2.2 (.inr (.inl (by decide))),
    (k 30001 0 0x9A).2.2 (.inr (.inr ⟨rfl, by decide⟩))⟩

theorem witness_item_fetched (h : Obligations.DwellRunsItsTime) : ∃ k, HeadAt mem0 0x10050 8 k 8 ∧ Laid mem0 0x10050 k 8 ∧
    BodyAt mem0 0x10050 k .home :=
  ((h base .A sh bt).2.2.2.2 mem0 0 16 8).1 .home 8 |>.1 (by decide +kernel)

theorem witness_install (h : Obligations.StartEntersStartingOrFails) : InstallBad base .installAxis 0x8000 :=
  ((h.1 base .installAxis 0x8000).1 (by decide +kernel)).1

theorem witness_stopping_complete (h : Obligations.StopBringsToStopped) :
    ∃ t, Sys2Proof.Machine.exec .stoppingComplete { base with device := .stopping } = .next t ∧ t.apart.device = .stopped :=
  (h { base with device := .stopping } sh bt).2.2.imp fun _ k =>
    ⟨k.1, congrArg State.device (k.2.1 ⟨rfl, rfl, by rintro ⟨⟩ <;> exact ⟨fun _ e => (by cases e), rfl, rfl⟩⟩).state⟩

theorem witness_stopping_goes_on (h : Obligations.StopBringsToStopped) : Answers .stoppingComplete base :=
  (h base sh bt).2.2.imp fun _ k => k.1

theorem witness_record (h : Obligations.SamplesOfAScan) :
    (pointRecord (handed .home) .A { kind := .touch, counts := noCounts, time := 9, deflection := Vec3.zero, noDeflection := false
                                     offWindow := false, attempts := 1, ctx := aSample.ctx }).probe = 5 ∧
    (missRecord (handed .home) .A 3).attempts = 3 :=
  ⟨((h.2 (handed .home) .A).1 _).1.2.2.2.2.2.2.2.1, ((h.2 (handed .home) .A).2 3).1.2.1⟩

/-- Arm A in a library slot that a repeated item called, in its second iteration: the executor has no repeat of its own. -/
def called : State :=
  (handed .home).modExec .A (fun e =>
    { e with stack := [{ slot := 3, index := 1, offset := 8, savedOffset := Vec3.zero, rep := none },
        { slot := 0, index := 2, offset := 16, savedOffset := Vec3.zero
          rep := some { remaining := 1, iteration := 1, step := Vec3.zero, base := Vec3.zero } }] })

theorem witness_record_called (h : Obligations.SamplesOfAScan) : (missRecord called .A 3).iteration = 1 ∧ (missRecord (handed .home) .A 3).iteration = 0 :=
  ⟨((h.2 called .A).2 3).1.2.2.2.2.2.1 [{ slot := 3, index := 1, offset := 8, savedOffset := Vec3.zero, rep := none }] _ [] _ rfl rfl (by simp) rfl,
    ((h.2 (handed .home) .A).2 3).1.2.2.2.2.2.2.1 rfl (by rintro _ ⟨⟩)⟩

end Sys2Proof.Tests
end

section
/-! SUPPORT. The coordinate unit: rounding, map evaluation and the chain (R156 to R162), and the two statements about them. -/

namespace Sys2Proof.Machine

/-! ### Rounding -/

/-- Section 6.3: with `2·|n| + d = 2·d·q + r` and `r < 2·d`, the distance of `q·d` from `|n|` is half of `|d − r|`, so it is at most
half of `d`, and exactly that only where `r = 0`, with `q·d` beyond `|n|`. -/
theorem rounds_roundDiv (n : Int) {d : Nat} (hd : 0 < d) : Rounds n d (roundDiv n d) := by
  have hsplit := Nat.div_add_mod (2 * n.natAbs + d) (2 * d)
  have hlt := Nat.mod_lt (2 * n.natAbs + d) (Nat.mul_pos two_pos hd)
  simp only [Rounds, roundDiv]
  generalize (2 * n.natAbs + d) / (2 * d) = q at *
  have hq : (q : Int) * (d : Int) = ((d * q : Nat) : Int) := by push_cast; ring
  rw [Nat.mul_assoc] at hsplit
  split
  · simp only [Int.ofNat_eq_natCast, Int.neg_mul, hq]
    omega
  · simp only [Int.ofNat_eq_natCast, hq]
    omega

/-! ### Three axes -/

theorem exists_axis_iff {p : Axis → Prop} : (∃ i, p i) ↔ p .X ∨ p .Y ∨ p .Z := by
  constructor
  · rintro ⟨i, h⟩
    cases i with
    | X => exact .inl h
    | Y => exact .inr (.inl h)
    | Z => exact .inr (.inr h)
  · rintro (h | h | h) <;> exact ⟨_, h⟩

@[simp] theorem axes_get_of {α : Type} (f : Axis → α) (i : Axis) : (Axes.of f).get i = f i := by cases i <;> rfl

/-! ### Map evaluation (R156) -/

section
variable {nodes : List Int} {d : MapDesc} {s : Int}

theorem evalMap_below (h : s < d.s0) : evalMap nodes d s = (nodeAt nodes d 0, true) := by
  simp [evalMap, h]

theorem evalMap_above (h : d.s0 + ((d.count - 1 : Nat) : Int) * 2 ^ d.m < s) :
    evalMap nodes d s = (nodeAt nodes d (d.count - 1), true) := by
  have hspan : (0 : Int) ≤ ((d.count - 1 : Nat) : Int) * 2 ^ d.m := by positivity
  have hlow : ¬ s < d.s0 := by omega
  simp [evalMap, hlow, h]

/-- Within the map, `k` full node distances and `f` of a further one from the first node. -/
theorem evalMap_within {k f : Nat} (hf : f < 2 ^ d.m) (hs : s = d.s0 + (k : Int) * 2 ^ d.m + f)
    (hlast : s ≤ d.s0 + ((d.count - 1 : Nat) : Int) * 2 ^ d.m) :
    evalMap nodes d s = (if k = d.count - 1 then nodeAt nodes d k
      else nodeAt nodes d k + roundDiv ((nodeAt nodes d (k + 1) - nodeAt nodes d k) * f) (2 ^ d.m), false) := by
  have hrel : (s - d.s0).toNat = f + k * 2 ^ d.m := by
    have : s - d.s0 = ((f + k * 2 ^ d.m : Nat) : Int) := by subst hs; push_cast; ring
    omega
  have hk : (f + k * 2 ^ d.m) / 2 ^ d.m = k := by
    rw [Nat.add_mul_div_right _ _ (Nat.two_pow_pos _), Nat.div_eq_of_lt hf, Nat.zero_add]
  have hlow : ¬ s < d.s0 := by
    have : (0 : Int) ≤ (k : Int) * 2 ^ d.m := by positivity
    omega
  have hhigh : ¬ d.s0 + ((d.count - 1 : Nat) : Int) * 2 ^ d.m < s := by omega
  simp only [evalMap, hlow, Nat.cast_mul, Nat.cast_pow, Nat.cast_ofNat, hhigh, hrel, hk, if_false, Nat.add_sub_cancel]
  split <;> rfl

/-- MAP_EDGE of one loaded map: the position lies below the first node or above the last. -/
theorem evalMap_edge_iff : (evalMap nodes d s).2 = true ↔ s < d.s0 ∨ d.s0 + ((d.count - 1 : Nat) : Int) * 2 ^ d.m < s := by
  simp only [evalMap, Nat.cast_mul, Nat.cast_pow, Nat.cast_ofNat]
  split_ifs with hlow hhigh <;> simp [*]

theorem evalDesc_edge_iff {o : Option MapDesc} : (evalDesc nodes o s).2 = true ↔ ∃ d, o = some d ∧ (evalMap nodes d s).2 = true := by
  cases o <;> simp [evalDesc]

end

theorem mapSum_edge_iff (nodes : List Int) (descs : Axes (Axes (Option MapDesc))) (j : Axis) (s : Vec3) :
    (mapSum nodes descs j s).2 = true ↔ ∃ i, (evalDesc nodes ((descs.get i).get j) (s.get i)).2 = true := by
  simp only [exists_axis_iff, mapSum, Bool.or_eq_true, Axes.get]

/-- MAP_EDGE of a point: some map of some direction was evaluated beyond an end. -/
theorem chain_edge_iff (c : ChainIn) :
    (chain c).2.1 = true ↔ ∃ j, (mapSum c.nodes c.descs j (scalePositions c.axes c.counts c.cref)).2 = true := by
  simp only [exists_axis_iff, chain, tipCentre, Bool.or_eq_true]

/-- Settles O59: the four cases of R156 one by one, and MAP_EDGE from the single map to the point. -/
theorem mapsAreEvaluated : Obligations.MapsAreEvaluated := by
  refine ⟨fun _ _ => rfl, fun nodes d s _ => ⟨evalMap_below, evalMap_above, fun h => ?_, fun k f hk hf hf' hs => ?_⟩, fun c => ?_⟩
  · have hlast := evalMap_within (nodes := nodes) (f := 0) (Nat.two_pow_pos d.m) (by simpa using h) h.le
    rwa [if_pos rfl] at hlast
  · lift f to Nat using hf
    have hstep : ((k + 1 : Nat) : Int) * 2 ^ d.m ≤ ((d.count - 1 : Nat) : Int) * 2 ^ d.m := by
      gcongr
      omega
    have hwithin := evalMap_within (nodes := nodes) (by exact_mod_cast hf') hs (by push_cast at hstep ⊢; linarith)
    rw [if_neg (by omega)] at hwithin
    exact ⟨_, hwithin, rounds_roundDiv _ (Nat.two_pow_pos _)⟩
  · simp only [chain_edge_iff, mapSum_edge_iff, evalDesc_edge_iff, evalMap_edge_iff]
    exact exists_comm

/-! ### The chain (R157 to R162) -/

theorem thermalTerm_rounds (s alpha dt : Int) : Rounds (s * alpha * dt) 100000000000 (thermalTerm s alpha dt) :=
  rounds_roundDiv _ (by decide)

/-- R162: a component beyond the limit is held there with its sign, any other is kept. -/
theorem limitCoord_cases (q : Int) :
    (549755813887 < q ∧ limitCoord q = (549755813887, true)) ∨ (q < -549755813887 ∧ limitCoord q = (-549755813887, true)) ∨
      (q.natAbs ≤ 549755813887 ∧ limitCoord q = (q, false)) := by
  unfold limitCoord
  split
  · next h => exact .inl ⟨h, rfl⟩
  · next hpos =>
    split
    · next h => exact .inr (.inl ⟨h, rfl⟩)
    · next hneg =>
      simp only [coordinateLimit] at hpos hneg
      exact .inr (.inr ⟨by omega, rfl⟩)

theorem limitCoord_value (q : Int) :
    (limitCoord q).1 = if q.natAbs ≤ 549755813887 then q else if 0 < q then 549755813887 else -549755813887 := by
  obtain ⟨h, e⟩ | ⟨h, e⟩ | ⟨h, e⟩ := limitCoord_cases q <;> rw [e] <;> dsimp only
  · rw [if_neg (by omega), if_pos (by omega)]
  · rw [if_neg (by omega), if_neg (by omega)]
  · rw [if_pos h]

theorem limitCoord_saturates_iff (q : Int) : (limitCoord q).2 = true ↔ 549755813887 < q.natAbs := by
  obtain ⟨h, e⟩ | ⟨h, e⟩ | ⟨h, e⟩ := limitCoord_cases q
  · exact iff_of_true (by rw [e]) (by omega)
  · exact iff_of_true (by rw [e]) (by omega)
  · exact iff_of_false (by simp [e]) (by omega)

/-- The component of direction `j` before the limit of step 7 (R161). -/
def unlimited (c : ChainIn) (j : Axis) : Int := partTerm c.part c.dtPart (c.part.datum.get j) ((tipCentre c).1.get j)

theorem chain_content_get (c : ChainIn) (j : Axis) : (chain c).1.get j = (limitCoord (unlimited c j)).1 := by
  cases j <;> rfl

theorem chain_saturated_iff (c : ChainIn) : (chain c).2.2 = true ↔ ∃ j, 549755813887 < (unlimited c j).natAbs := by
  simp only [exists_axis_iff, ← limitCoord_saturates_iff, chain, unlimited, Bool.or_eq_true]

/-- Steps 1 to 5 in one direction (R157 to R160). -/
theorem tipCentre_get (c : ChainIn) (j : Axis) :
    let s := scalePositions c.axes c.counts c.cref
    (tipCentre c).1.get j = s.get j + thermalTerm (s.get j) (c.axes.get j).alpha (c.dtScale.get j) -
      ((mapSum c.nodes c.descs j s).1 + (squareness c.limits s).get j) + c.tip.get j + c.deflection.get j := by
  cases j <;> rfl

theorem chainIn_dtScale (v : State) (a : Arm) (x : PointIn) (i : Axis) :
    (chainIn v a x).dtScale.get i = ((v.thermal.published.groups.scale.get a).get i).value := by
  cases i <;> rfl

theorem chainIn_tip (v : State) (a : Arm) {x : PointIn} {o : OrientEntry} (h : x.ctx.selected = some o) :
    (chainIn v a x).tip = o.offset := by
  simp only [chainIn, tipOffset, h]

/-- Settles O60: each term of R157 to R161 as the model forms it, rounded by `rounds_roundDiv`, then the limit of R162. -/
theorem chainGivesTheCoordinate : Obligations.ChainGivesTheCoordinate := by
  intro c s maps
  refine ⟨Axes.of fun i => thermalTerm (s.get i) (c.axes.get i).alpha (c.dtScale.get i),
    Axes.of fun j => thermalTerm ((tipCentre c).1.get j - c.part.datum.get j) c.part.alpha c.dtPart,
    Axes.of (unlimited c), roundDiv (s.y * c.limits.qXY) 1000000000, roundDiv (s.z * c.limits.qXZ) 1000000000,
    roundDiv (s.z * c.limits.qYZ) 1000000000, fun i => ?_, rounds_roundDiv _ (by decide), rounds_roundDiv _ (by decide),
    rounds_roundDiv _ (by decide), ?_⟩
  · simpa only [axes_get_of] using thermalTerm_rounds (s.get i) (c.axes.get i).alpha (c.dtScale.get i)
  intro g p
  have hp : ∀ j, p.get j = (tipCentre c).1.get j := fun j => by
    have hg : (mapSum c.nodes c.descs j s).1 + (squareness c.limits s).get j = g.get j := by
      cases j with
      | X => exact (add_assoc _ _ _).symm
      | Y => rfl
      | Z => exact add_zero _
    simp only [p, axes_get_of, ← hg]
    exact (tipCentre_get c j).symm
  simp only [hp, axes_get_of]
  refine ⟨fun j => thermalTerm_rounds _ _ _, fun j => rfl, fun j => ?_, chain_saturated_iff c, ?_⟩
  · rw [chain_content_get, limitCoord_value]
  · rintro v a x rfl
    exact ⟨rfl, rfl, chainIn_dtScale v a x, rfl, rfl, fun o => chainIn_tip v a, rfl, rfl, rfl, rfl⟩

end Sys2Proof.Machine
end
